-- ==== Sys2Proof/Word.lean ====
section
/-! DEFINITION. The word types of SYNCORE (rules R11, R12) and the closed sets of names its rules use. -/

namespace Sys2Proof

/-- A word is 32 bits, bit 0 the least significant (rule R11). -/
abbrev Word := BitVec 32

/-- A byte of a command word or of the audio stream (rules R62, R63). -/
abbrev Byte := BitVec 8

/-- A binary32 pattern: "the set of binary32 bit patterns; a register that holds an F32 holds its
32-bit pattern and nothing else" (rules R12, R120). -/
abbrev F32 := BitVec 32

/-- An output sample: an integer from -32768 to 32767 held as 16 bits two's complement (rule R12). -/
abbrev I16 := BitVec 16

/-- `Unit` of rule R12: OSC1 (index 0), OSC2 (index 1), LFO (index 2). -/
inductive OscUnit where
  | osc1
  | osc2
  | lfo
deriving DecidableEq, Repr

/-- `Wave` of rule R12: "waveforms Sine, Sawtooth, Square and no other" (rule R9). -/
inductive Wave where
  | sine
  | sawtooth
  | square
deriving DecidableEq, Repr

/-- The five sample buffers: `oscBuf[0..2]`, `adBuf`, `relBuf` (rules R29, R30, R60 (b), (c)). -/
inductive BufId where
  | osc (u : OscUnit)
  | ad
  | rel
deriving DecidableEq, Repr

/-- The operations that can return a NaN whose pattern the spec leaves open (rules R121, R128,
`93_implementation_defined.md` U4). -/
inductive FloatOp where
  | add
  | sub
  | mul
  | div
  | exp
deriving DecidableEq, Repr

/-- The widths of a bus access; the register space accepts `word` only (rule R64). -/
inductive AccessWidth where
  | byte
  | halfword
  | word
deriving DecidableEq, Repr

end Sys2Proof
end

