-- ==== Sys2Proof/Config.lean ====
section
/-! DEFINITION. What is fixed for one SYNCORE: the implementation parameters of rule R8 at the values the
spec decides, and the values the spec leaves open, as constants with no body. -/

namespace Sys2Proof

/-- Device sample rate, samples per second per channel (rule R8). -/
def Config.FS : Nat := 44100

/-- Downsampling factors: 1 for the two audible oscillators, 100 for the LFO (rules R8, R9, R150). -/
def Config.DS : OscUnit → Nat
  | .osc1 => 1
  | .osc2 => 1
  | .lfo => 100

/-- Envelope downsampling factor (rule R8). -/
def Config.DS_ENV : Nat := 100

/-- Capacity of each oscillator buffer, in entries (rule R8). -/
def Config.OSC_BUF_CAP : Nat := 4410

/-- Capacity of the attack-decay buffer, in entries (rule R8). -/
def Config.ENV_AD_CAP : Nat := 4410

/-- Capacity of the release buffer, in entries (rule R8). -/
def Config.ENV_REL_CAP : Nat := 4410

/-- Samples per channel in one audio period (rule R8). -/
def Config.PERIOD_SAMPLES : Nat := 441

/-- Number of output channels (rule R8). -/
def Config.NCH : Nat := 2

/-- Bytes in one audio period, `PERIOD_SAMPLES * NCH * 2` (rule R8). -/
def Config.PERIOD_BYTES : Nat := Config.PERIOD_SAMPLES * Config.NCH * 2

/-- The capacity of each of the five buffers (rules R29, R30). -/
def Config.capacity : BufId → Nat
  | .osc _ => Config.OSC_BUF_CAP
  | .ad => Config.ENV_AD_CAP
  | .rel => Config.ENV_REL_CAP

/-- FREE VALUE (log entry 1). `freeEntry e b k` is what entry `k` of buffer `b` holds after the reset
numbered `e` until an update writes it: "any 32-bit value, the same at every read until written"
(rule R31, `93_implementation_defined.md` U11). -/
opaque Config.freeEntry : Nat → BufId → Nat → F32

/-- FREE VALUE (log entry 2). Sign and payload of the NaN that operation `op` on `a` and `b` returns:
"Which NaN pattern results is unspecified" (rule R121, `93_implementation_defined.md` U4). -/
opaque Config.freeNan : FloatOp → F32 → F32 → Word

end Sys2Proof
end

