-- ==== Sys2Proof/Syntax.lean ====
section
/-! DEFINITION. The 14 commands of rule R93 (spec/opcode_table.json), one constructor per row. -/

namespace Sys2Proof

/-- SYNCORE's commands. `unit` is the operand of format U, `flag` of format F, `key` and `vel` of formats
K and KV: naturals "from 0 to 127" (rules R12, R91), which `Instr.wf` checks. -/
inductive Instr where
  /-- NOP, rule R221. -/
  | nop
  /-- START, rule R222. -/
  | start
  /-- OSC_UPDATE unit, rule R155. -/
  | oscUpdate (unit : OscUnit)
  /-- OSC_SET_AMP unit, rule R156. -/
  | oscSetAmp (unit : OscUnit)
  /-- OSC_SET_FREQ unit, rule R157. -/
  | oscSetFreq (unit : OscUnit)
  /-- OSC_SET_WAVE unit, rule R158. -/
  | oscSetWave (unit : OscUnit)
  /-- ENV_UPDATE, rule R180. -/
  | envUpdate
  /-- SET_LFO_EN flag, rule R223. -/
  | setLfoEn (flag : Bool)
  /-- SET_SYNC_EN flag, rule R224. -/
  | setSyncEn (flag : Bool)
  /-- SET_NOISE, rule R225. -/
  | setNoise
  /-- APPLY_FULL, rule R226. -/
  | applyFull
  /-- SNAPSHOT, rule R227. -/
  | snapshot
  /-- KEY_PRESS key, vel, rule R228. -/
  | keyPress (key vel : Nat)
  /-- KEY_RELEASE key, rule R229. -/
  | keyRelease (key : Nat)
deriving DecidableEq, Repr

end Sys2Proof
end

