-- ==== Sys2Proof/WellFormed.lean ====
section
/-! DEFINITION. Which terms of `Instr` are commands of the hardware: `key` and `vel` are 7-bit fields. -/

namespace Sys2Proof

/-- "`Key` and `Vel` are naturals from 0 to 127" (rule R12). A unit other than 0, 1, 2 and a flag other
than 0, 1 are no terms at all. -/
def Instr.wf : Instr → Bool
  | .nop => true
  | .start => true
  | .oscUpdate _ => true
  | .oscSetAmp _ => true
  | .oscSetFreq _ => true
  | .oscSetWave _ => true
  | .envUpdate => true
  | .setLfoEn _ => true
  | .setSyncEn _ => true
  | .setNoise => true
  | .applyFull => true
  | .snapshot => true
  | .keyPress key vel => decide (key < 128) && decide (vel < 128)
  | .keyRelease key => decide (key < 128)

end Sys2Proof
end

