-- ==== Sys2Proof/Decode.lean ====
section
/-! DEFINITION. Command words: the opcode map of rule R93, the total decoder of rule R92, the encoder of
rule R94. -/

namespace Sys2Proof

/-- The index of a unit: OSC1 0, OSC2 1, LFO 2 (rule R12). -/
def OscUnit.index : OscUnit → Nat
  | .osc1 => 0
  | .osc2 => 1
  | .lfo => 2

/-- The unit a 2-bit field names; 3 is reserved (rules R92, R95). -/
def OscUnit.ofIndex? : Nat → Option OscUnit
  | 0 => some .osc1
  | 1 => some .osc2
  | 2 => some .lfo
  | _ => none

/-- `w[hi:lo]` of rule R11, read as an unsigned number. -/
def field (w : Word) (hi lo : Nat) : Nat := w.toNat / 2 ^ lo % 2 ^ (hi + 1 - lo)

/-- Why a word is illegal (rule R95), or why bytes hold no word at all. -/
inductive DecodeError where
  /-- Fewer than the four bytes of one command word (rule R90: there is one length). -/
  | truncated
  /-- `op` is none of the 14 values of rule R93. -/
  | reservedOpcode
  /-- A must-be-zero bit of the row's format is 1. -/
  | mustBeZero
  /-- The format is U and `unit = 3`. -/
  | reservedUnit
deriving DecidableEq, Repr

/-- Format Z of rule R91: no operand. -/
def decodeZ (w : Word) (i : Instr) : Except DecodeError Instr :=
  if field w 23 0 = 0 then .ok i else .error .mustBeZero

/-- Format U of rule R91: `unit = w[17:16]`. -/
def decodeU (w : Word) (mk : OscUnit → Instr) : Except DecodeError Instr :=
  if field w 23 18 = 0 ∧ field w 15 0 = 0 then
    match OscUnit.ofIndex? (field w 17 16) with
    | some u => .ok (mk u)
    | none => .error .reservedUnit
  else .error .mustBeZero

/-- Format F of rule R91: `flag = w[16]`. -/
def decodeF (w : Word) (mk : Bool → Instr) : Except DecodeError Instr :=
  if field w 23 17 = 0 ∧ field w 15 0 = 0 then .ok (mk (field w 16 16 == 1))
  else .error .mustBeZero

/-- Format K of rule R91: `key = w[22:16]`. -/
def decodeK (w : Word) (mk : Nat → Instr) : Except DecodeError Instr :=
  if field w 23 23 = 0 ∧ field w 15 0 = 0 then .ok (mk (field w 22 16))
  else .error .mustBeZero

/-- Format KV of rule R91: `key = w[22:16]`, `vel = w[14:8]`. -/
def decodeKV (w : Word) (mk : Nat → Nat → Instr) : Except DecodeError Instr :=
  if field w 23 23 = 0 ∧ field w 15 15 = 0 ∧ field w 7 0 = 0 then
    .ok (mk (field w 22 16) (field w 14 8))
  else .error .mustBeZero

/-- Decoding "is a total function from 32-bit words to commands" (rule R92); `op = w[31:24]` is looked up
in the table of rule R93 and a word that is no command is rejected by name (rule R95). -/
def decodeWord (w : Word) : Except DecodeError Instr :=
  match field w 31 24 with
  | 0x00 => decodeZ w .nop
  | 0x01 => decodeZ w .start
  | 0x10 => decodeU w .oscUpdate
  | 0x11 => decodeU w .oscSetAmp
  | 0x12 => decodeU w .oscSetFreq
  | 0x13 => decodeU w .oscSetWave
  | 0x20 => decodeZ w .envUpdate
  | 0x30 => decodeF w .setLfoEn
  | 0x31 => decodeF w .setSyncEn
  | 0x32 => decodeZ w .setNoise
  | 0x40 => decodeZ w .applyFull
  | 0x41 => decodeZ w .snapshot
  | 0x50 => decodeKV w .keyPress
  | 0x51 => decodeK w .keyRelease
  | _ => .error .reservedOpcode

/-- The word four bytes hold, little-endian: "a word ... occupies byte addresses `a` (bits 7:0) to `a+3`
(bits 31:24)" (rule R62). -/
def wordOfBytes (b0 b1 b2 b3 : Byte) : Word :=
  BitVec.ofNat 32 (b0.toNat + b1.toNat * 2 ^ 8 + b2.toNat * 2 ^ 16 + b3.toNat * 2 ^ 24)

/-- The four bytes of a word, little-endian (rule R62). -/
def bytesOfWord (w : Word) : List Byte :=
  [BitVec.ofNat 8 (field w 7 0), BitVec.ofNat 8 (field w 15 8), BitVec.ofNat 8 (field w 23 16),
    BitVec.ofNat 8 (field w 31 24)]

/-- Decode one command from bytes, with the bytes that follow it. -/
def decodeBytes : List Byte → Except DecodeError (Instr × List Byte)
  | b0 :: b1 :: b2 :: b3 :: rest =>
    match decodeWord (wordOfBytes b0 b1 b2 b3) with
    | .ok i => .ok (i, rest)
    | .error e => .error e
  | _ => .error .truncated

/-- The instruction the decoder reads from a row's bits, numbered as spec/opcode_table.json numbers them;
the bits above `nbits` are 0. -/
def decodeTableWord (nbits w : Nat) : Option Instr :=
  match decodeBytes (bytesOfWord (BitVec.ofNat 32 (w % 2 ^ nbits))) with
  | .ok (i, _) => some i
  | .error _ => none

/-- The opcode of rule R93. -/
def Instr.op : Instr → Nat
  | .nop => 0x00
  | .start => 0x01
  | .oscUpdate _ => 0x10
  | .oscSetAmp _ => 0x11
  | .oscSetFreq _ => 0x12
  | .oscSetWave _ => 0x13
  | .envUpdate => 0x20
  | .setLfoEn _ => 0x30
  | .setSyncEn _ => 0x31
  | .setNoise => 0x32
  | .applyFull => 0x40
  | .snapshot => 0x41
  | .keyPress _ _ => 0x50
  | .keyRelease _ => 0x51

/-- The first operand byte `a` of rules R90 and R91. -/
def Instr.operandA : Instr → Nat
  | .nop => 0
  | .start => 0
  | .oscUpdate u => u.index
  | .oscSetAmp u => u.index
  | .oscSetFreq u => u.index
  | .oscSetWave u => u.index
  | .envUpdate => 0
  | .setLfoEn f => f.toNat
  | .setSyncEn f => f.toNat
  | .setNoise => 0
  | .applyFull => 0
  | .snapshot => 0
  | .keyPress key _ => key
  | .keyRelease key => key

/-- The second operand byte `b` of rules R90 and R91. -/
def Instr.operandB : Instr → Nat
  | .nop => 0
  | .start => 0
  | .oscUpdate _ => 0
  | .oscSetAmp _ => 0
  | .oscSetFreq _ => 0
  | .oscSetWave _ => 0
  | .envUpdate => 0
  | .setLfoEn _ => 0
  | .setSyncEn _ => 0
  | .setNoise => 0
  | .applyFull => 0
  | .snapshot => 0
  | .keyPress _ vel => vel
  | .keyRelease _ => 0

/-- The word of a command: `w = (op << 24) | (a << 16) | (b << 8)` (rule R94). -/
def encode (i : Instr) : Word :=
  BitVec.ofNat 32 (i.op <<< 24 ||| i.operandA <<< 16 ||| i.operandB <<< 8)

/-- The bytes of a command as the hardware stores its word (rule R62). -/
def encodeBytes (i : Instr) : List Byte := bytesOfWord (encode i)

/-- The mnemonic of rule R93. -/
def Instr.mnemonic : Instr → String
  | .nop => "NOP"
  | .start => "START"
  | .oscUpdate _ => "OSC_UPDATE"
  | .oscSetAmp _ => "OSC_SET_AMP"
  | .oscSetFreq _ => "OSC_SET_FREQ"
  | .oscSetWave _ => "OSC_SET_WAVE"
  | .envUpdate => "ENV_UPDATE"
  | .setLfoEn _ => "SET_LFO_EN"
  | .setSyncEn _ => "SET_SYNC_EN"
  | .setNoise => "SET_NOISE"
  | .applyFull => "APPLY_FULL"
  | .snapshot => "SNAPSHOT"
  | .keyPress _ _ => "KEY_PRESS"
  | .keyRelease _ => "KEY_RELEASE"

/-- The `match` column of rule R93. -/
def Instr.tableMatch : Instr → Word
  | .nop => 0x00000000
  | .start => 0x01000000
  | .oscUpdate _ => 0x10000000
  | .oscSetAmp _ => 0x11000000
  | .oscSetFreq _ => 0x12000000
  | .oscSetWave _ => 0x13000000
  | .envUpdate => 0x20000000
  | .setLfoEn _ => 0x30000000
  | .setSyncEn _ => 0x31000000
  | .setNoise => 0x32000000
  | .applyFull => 0x40000000
  | .snapshot => 0x41000000
  | .keyPress _ _ => 0x50000000
  | .keyRelease _ => 0x51000000

/-- The `mask` column of rule R93. -/
def Instr.tableMask : Instr → Word
  | .nop => 0xFFFFFFFF
  | .start => 0xFFFFFFFF
  | .oscUpdate _ => 0xFFFCFFFF
  | .oscSetAmp _ => 0xFFFCFFFF
  | .oscSetFreq _ => 0xFFFCFFFF
  | .oscSetWave _ => 0xFFFCFFFF
  | .envUpdate => 0xFFFFFFFF
  | .setLfoEn _ => 0xFFFEFFFF
  | .setSyncEn _ => 0xFFFEFFFF
  | .setNoise => 0xFFFFFFFF
  | .applyFull => 0xFFFFFFFF
  | .snapshot => 0xFFFFFFFF
  | .keyPress _ _ => 0xFF8080FF
  | .keyRelease _ => 0xFF80FFFF

/-- Whether the row's format is U, whose `unit` field must not be 3 (rules R91, R93). -/
def Instr.formatU : Instr → Bool
  | .nop => false
  | .start => false
  | .oscUpdate _ => true
  | .oscSetAmp _ => true
  | .oscSetFreq _ => true
  | .oscSetWave _ => true
  | .envUpdate => false
  | .setLfoEn _ => false
  | .setSyncEn _ => false
  | .setNoise => false
  | .applyFull => false
  | .snapshot => false
  | .keyPress _ _ => false
  | .keyRelease _ => false

end Sys2Proof
end

