-- ==== Sys2Proof/Machine/State.lean ====
section
/-! DEFINITION. The architectural state of SYNCORE (rule R20), the events and labels of its step relation
(rule R14), the reasons a step could stop, and the state after reset (rule R45). -/

namespace Sys2Proof.Machine

/-- One value for each of OSC1, OSC2 and the LFO. -/
structure PerUnit (α : Type) where
  osc1 : α
  osc2 : α
  lfo : α
deriving DecidableEq, Repr

/-- An oscillator record (rule R22). -/
structure OscParams where
  amplitude : F32
  frequency : F32
  waveform : Wave
deriving DecidableEq, Repr

/-- The envelope record (rule R22). -/
structure EnvParams where
  attack : F32
  decay : F32
  release : F32
  sustain : F32
  amplitude : F32
deriving DecidableEq, Repr

/-- The synth record (rule R23). -/
structure SynthParams where
  lfoEnabled : Bool
  osc2SyncEnabled : Bool
  noiseAmplitude : F32
deriving DecidableEq, Repr

/-- ACT, the active parameter file: "the parameters the oscillators, the envelope and the mixing engine
currently use" (rule R21). -/
structure Act where
  osc : PerUnit OscParams
  env : EnvParams
  synth : SynthParams
deriving DecidableEq, Repr

/-- The five sample buffers (rules R29, R30). Every update writes the entries 0 to size - 1 (rule R31), so
the entries written since reset are a prefix: each list holds exactly that prefix. An entry beyond it
holds its unspecified reset contents, `Config.freeEntry epoch`. -/
structure Memory where
  oscBuf : PerUnit (List F32)
  adBuf : List F32
  relBuf : List F32
  /-- THE MODEL'S OWN (log entry 1): how many RESET events have happened, the argument of the free value. -/
  epoch : Nat
deriving DecidableEq, Repr

/-- What the world outside asks of SYNCORE, one event a step: the three kinds of step of rule R14, and the
platform's reset event (rule R290). -/
inductive Event where
  /-- The host reads the register at a 12-bit offset (rules R64, R66, R240). -/
  | read (width : AccessWidth) (offset : BitVec 12)
  /-- The host writes `value` to the register at a 12-bit offset (rules R64, R67, R241). -/
  | write (width : AccessWidth) (offset : BitVec 12) (value : Word)
  /-- A period tick, with the sink's answer: "a draw from 0 to `PERIOD_BYTES`" (rules R201, R209). -/
  | tick (accepted : Fin (Config.PERIOD_BYTES + 1))
  /-- Reset, which "may occur between any two steps" (rule R290). -/
  | reset
deriving DecidableEq, Repr

/-- What the outside world sees of a step: "The step's label carries the whole period `out` and the draw
`accepted`" (rule R210), a register read returns a word (rule R66), a bad access is answered with a bus
error (rule R65). -/
inductive Label where
  /-- Nothing happened: no event was waiting, or no step has run yet. -/
  | idle
  /-- A register read returned this word. -/
  | readData (value : Word)
  /-- A register write completed. -/
  | written
  /-- A bad or unmapped read: a bus error response with this data value (rule R65). -/
  | readError (value : Word)
  /-- A bad or unmapped write: a bus error response (rule R65). -/
  | writeError
  /-- PRODUCE handed this period to the sink, which took so many bytes of it. -/
  | period (out : List I16) (accepted : Nat)
  /-- A tick while `run = 0`: discarded, nothing emitted (rule R201). -/
  | tickDiscarded
  /-- A RESET event happened. -/
  | resetDone
deriving DecidableEq, Repr

/-- The state of SYNCORE: everything rule R20 lists, then the model's own two fields. -/
structure State where
  /-- ACT (R21). -/
  act : Act
  /-- STG, the staging block (R25). -/
  stg : Vector Word 16
  /-- SNAP, the snapshot block (R26). -/
  snap : Vector Word 16
  /-- `oscSize[u]`; 0 means unit u is unconfigured (R29). -/
  oscSize : PerUnit Nat
  /-- `oscBuf[0..2]`, `adBuf`, `relBuf` (R29, R30). -/
  mem : Memory
  /-- `atkSize` (R30). -/
  atkSize : Nat
  /-- `adSize`; 0 means the envelope is unconfigured (R30). -/
  adSize : Nat
  /-- `relSize` (R30). -/
  relSize : Nat
  /-- `trigOfs`, the trigger mark (R30). -/
  trigOfs : Word
  /-- `relOfs`, the release mark; 0xFFFFFFFF is the sentinel (R30). -/
  relOfs : Word
  /-- `curOfs`, the global time counter (R28). -/
  curOfs : Word
  /-- `lastKey`; 0xFF means no key since reset (R32). -/
  lastKey : BitVec 8
  /-- `run` (R33). -/
  run : Bool
  /-- RESULT (R34, R46). -/
  result : Word
  /-- ERR (R35, R46). -/
  err : Word
  /-- UNDERRUNS (R37). -/
  underruns : Word
  /-- PEEKADDR, bits 18:0 (R38). -/
  peekAddr : BitVec 19
  /-- THE MODEL'S OWN (log entry 4): the events still to come, in the order the arbiter serves them; a
  schedule with nothing assumed of it (rules R75, R78). -/
  inputs : List Event
  /-- THE MODEL'S OWN (log entry 5): the label of the step that led here (rules R14, R210). -/
  label : Label
deriving DecidableEq, Repr

/-- SYNCORE has no fault: "There is no trap mechanism" (rule R268), "no error stops the block" (rule R262).
A bus error is an answer, after which the block goes on: `Label.readError`, `Label.writeError`. -/
inductive Fault where
deriving DecidableEq, Repr

/-- Why the model gives a step no meaning. -/
inductive Refusal where
  /-- An instruction with no meaning yet, by its mnemonic. Raised by nothing: all 14 commands have their
  meaning. Safe: it would stop where the hardware goes on. -/
  | notModelled (mnemonic : String)
deriving DecidableEq, Repr

/-- The reset record of an oscillator (rule R45). -/
def OscParams.reset : OscParams := { amplitude := 0, frequency := 0, waveform := .sine }

/-- The state right after reset (rule R45). `mem.epoch`, `inputs` and `label` are the model's own (log
entries 1, 4, 5). -/
def State.reset : State where
  act :=
    { osc := { osc1 := OscParams.reset, osc2 := OscParams.reset, lfo := OscParams.reset }
      env := { attack := 0, decay := 0, release := 0, sustain := 0, amplitude := 0 }
      synth := { lfoEnabled := false, osc2SyncEnabled := false, noiseAmplitude := 0 } }
  stg := Vector.replicate 16 0
  snap := Vector.replicate 16 0
  oscSize := { osc1 := 0, osc2 := 0, lfo := 0 }
  mem := { oscBuf := { osc1 := [], osc2 := [], lfo := [] }, adBuf := [], relBuf := [], epoch := 0 }
  atkSize := 0
  adSize := 0
  relSize := 0
  trigOfs := 0xFFFFFFFF
  relOfs := 0xFFFFFFFF
  curOfs := 0
  lastKey := 0xFF
  run := false
  result := 0
  err := 0
  underruns := 0
  peekAddr := 0
  inputs := []
  label := .idle

end Sys2Proof.Machine
end

