-- ==== Sys2Proof/Machine/Float.lean ====
section
/-! DEFINITION. Binary32 arithmetic (rules R120 to R126). A finite pattern stands for an integer multiple of
2^-149; results are computed exactly on those integers and rounded once. -/

namespace Sys2Proof.Machine

/-- The pattern of +infinity, which is also the bound of the finite magnitudes (rule R120). -/
def infMag : Nat := 0x7F800000

/-- The unit of the exact arithmetic: 1.0 is `2^149` times the smallest subnormal (rule R120). -/
def oneUnit : Nat := 2 ^ 149

/-- The sign bit, bit 31 (rule R120). -/
def fsign (a : F32) : Bool := a.msb

/-- The pattern without its sign bit (rule R120). -/
def fmag (a : F32) : Nat := a.toNat % 2 ^ 31

def isNaN (a : F32) : Bool := decide (infMag < fmag a)

def isInf (a : F32) : Bool := decide (fmag a = infMag)

def isZero (a : F32) : Bool := decide (fmag a = 0)

/-- The magnitude of a finite pattern `m`, in units of 2^-149: 8 exponent bits with bias 127, 23 fraction
bits, gradual underflow (rule R120). -/
def magUnits (m : Nat) : Nat :=
  if m / 2 ^ 23 = 0 then m else (2 ^ 23 + m % 2 ^ 23) * 2 ^ (m / 2 ^ 23 - 1)

/-- The magnitude of a finite value in units of 2^-149. -/
def absUnits (a : F32) : Nat := magUnits (fmag a)

/-- A finite value in units of 2^-149. -/
def units (a : F32) : Int := if fsign a then -(absUnits a : Int) else absUnits a

/-- `n / d` rounded to the nearest integer, ties to even. -/
def divNearestEven (n d : Nat) : Nat :=
  if 2 * (n % d) < d ∨ (2 * (n % d) = d ∧ n / d % 2 = 0) then n / d else n / d + 1

/-- The exponent above the subnormals' that a magnitude of `n / d` units is rounded at: 24 significant bits
(rule R120). -/
def roundExp (n d : Nat) : Nat := Nat.log2 (n / d) - 23

/-- The pattern of the binary32 magnitude nearest `n / d` units, ties to even; an infinity when it is out
of range (rule R121). With `e` the exponent and `m` the rounded multiple of `2^e`, the pattern is
`e * 2^23 + m`: a carry out of the fraction runs into the exponent. -/
def roundMag (n d : Nat) : Nat :=
  min (roundExp n d * 2 ^ 23 + divNearestEven n (d * 2 ^ roundExp n d)) infMag

/-- A pattern from a sign and a magnitude pattern. -/
def fpack (sign : Bool) (m : Nat) : F32 := BitVec.ofNat 32 (if sign then m + 2 ^ 31 else m)

/-- The NaN an operation returns; "which NaN pattern results is unspecified" (rule R121, log entry 2):
every NaN pattern is among the values this can take. -/
def nanResult (op : FloatOp) (a b : F32) : F32 :=
  if Config.freeNan op a b &&& 0x007FFFFF = 0 then Config.freeNan op a b ||| 0x7FC00000
  else Config.freeNan op a b ||| 0x7F800000

/-- "`fneg(a)` flips bit 31 and nothing else" (rule R121). -/
def fneg (a : F32) : F32 := a ^^^ 0x80000000

/-- The sum of `a` and `b` rounded once; `na` and `nb` name the operands of the operation `op` a NaN is
attributed to (rule R121). An exact zero sum is +0 unless both terms are negative. -/
def addWith (op : FloatOp) (na nb a b : F32) : F32 :=
  if isNaN a || isNaN b then nanResult op na nb
  else if isInf a then if isInf b && fsign a != fsign b then nanResult op na nb else a
  else if isInf b then b
  else if units a + units b = 0 then fpack (fsign a && fsign b) 0
  else fpack (decide (units a + units b < 0)) (roundMag (units a + units b).natAbs 1)

/-- `fadd` of rule R121. -/
def fadd (a b : F32) : F32 := addWith .add a b a b

/-- `fsub` of rule R121. -/
def fsub (a b : F32) : F32 := addWith .sub a b a (fneg b)

/-- `fmul` of rule R121; `0 * inf` is a NaN. -/
def fmul (a b : F32) : F32 :=
  if isNaN a || isNaN b then nanResult .mul a b
  else if isInf a || isInf b then
    if isZero a || isZero b then nanResult .mul a b else fpack (fsign a != fsign b) infMag
  else fpack (fsign a != fsign b) (roundMag (absUnits a * absUnits b) oneUnit)

/-- `fdiv` of rule R121; "division of a nonzero by zero gives an infinity", `0/0` and `inf/inf` a NaN. -/
def fdiv (a b : F32) : F32 :=
  if isNaN a || isNaN b then nanResult .div a b
  else if isInf a then if isInf b then nanResult .div a b else fpack (fsign a != fsign b) infMag
  else if isInf b then fpack (fsign a != fsign b) 0
  else if isZero b then
    if isZero a then nanResult .div a b else fpack (fsign a != fsign b) infMag
  else fpack (fsign a != fsign b) (roundMag (absUnits a * oneUnit) (absUnits b))

/-- The order of the values of the patterns that are no NaN, the two zeros equal (rule R122). -/
def orderKey (a : F32) : Int := if fsign a then -(fmag a : Int) else fmag a

/-- `flt` of rule R122. -/
def flt (a b : F32) : Bool := !isNaN a && !isNaN b && decide (orderKey a < orderKey b)

/-- `fle` of rule R122. -/
def fle (a b : F32) : Bool := !isNaN a && !isNaN b && decide (orderKey a ≤ orderKey b)

/-- `u2f` of rule R123. -/
def u2f (n : Nat) : F32 := fpack false (roundMag (n * oneUnit) 1)

/-- `f2n_trunc` of rule R124. -/
def f2nTrunc (v : F32) : Nat :=
  if isNaN v || fsign v then 0
  else if isInf v then 2 ^ 32 - 1
  else if 2 ^ 32 * oneUnit ≤ absUnits v then 2 ^ 32 - 1
  else absUnits v / oneUnit

/-- `f2n_round` of rule R125: half away from zero, the sum with 1/2 taken exactly. -/
def f2nRound (v : F32) : Nat :=
  if isNaN v || fsign v then 0
  else if isInf v then 2 ^ 32 - 1
  else if (2 ^ 32 - 1) * oneUnit ≤ absUnits v then 2 ^ 32 - 1
  else (2 * absUnits v + oneUnit) / (2 * oneUnit)

/-- The integer `f2i16` of rule R126 casts to: truncation toward zero, then clamping. -/
def f2i16Int (v : F32) : Int :=
  if isNaN v then 0
  else if isInf v then if fsign v then -32768 else 32767
  else if fsign v then max (-((absUnits v / oneUnit : Nat) : Int)) (-32768)
  else min ((absUnits v / oneUnit : Nat) : Int) 32767

/-- `f2i16` of rule R126, as 16 bits two's complement. -/
def f2i16 (v : F32) : I16 := BitVec.ofInt 16 (f2i16Int v)

end Sys2Proof.Machine
end

