-- ==== Sys2Proof/Machine/Numerics.lean ====
section
/-! DEFINITION. The two configuration functions SINTURN and FEXP in their decided, correctly rounded
instances (rules R127, R128), the constants of rule R129 and the table NOTE_FREQ of rule R130. -/

namespace Sys2Proof.Machine

/-- The fixed-point one of the two functions: 160 fraction bits. -/
def fixOne : Nat := 2 ^ 160

/-- pi in fixed point, rounded down. -/
def fixPi : Nat := 0x3243F6A8885A308D313198A2E03707344A4093822

/-- The innermost `j` of the 28 nested factors of the exponential series
`1 + r/1 * (1 + r/2 * (1 + ...))`, in fixed point. -/
def expSeries (r : Nat) : Nat → Nat
  | 0 => fixOne
  | j + 1 => fixOne + r * expSeries r j / ((28 - j) * fixOne)

/-- The square in fixed point. -/
def fixSquare (t : Nat) : Nat := t * t / fixOne

/-- `t` squared `n` times. -/
def fixSquares (t : Nat) : Nat → Nat
  | 0 => t
  | n + 1 => fixSquare (fixSquares t n)

/-- `e^y` in fixed point, for `y` units of 2^-149 up to 104: the series at `y / 2^10`, which is exactly
`2 y` in fixed point, squared ten times. -/
def expFix (y : Nat) : Nat := fixSquares (expSeries (2 * y) 28) 10

/-- `FEXP` of rule R128: the binary32 value nearest `e^x` (log entry 3). Below -104 the value is nearest
+0; above 89 it is out of range. -/
def fexp (x : F32) : F32 :=
  if isNaN x then nanResult .exp x x
  else if fsign x then
    if isInf x || decide (104 * oneUnit < absUnits x) then 0
    else fpack false (roundMag (fixOne * oneUnit) (expFix (absUnits x)))
  else
    if isInf x || decide (89 * oneUnit < absUnits x) then fpack false infMag
    else fpack false (roundMag (expFix (absUnits x) * oneUnit) fixOne)

/-- The innermost `j` of the 24 nested factors of the sine series
`1 - a²/(2·3) * (1 - a²/(4·5) * (1 - ...))`, with `a2` the square, in fixed point. -/
def sinSeries (a2 : Nat) : Nat → Nat
  | 0 => fixOne
  | j + 1 => fixOne - a2 * sinSeries a2 j / ((2 * (24 - j)) * (2 * (24 - j) + 1) * fixOne)

/-- `sin a` in fixed point, for `a` from 0 to pi/2. -/
def sinFix (a : Nat) : Nat := min (a * sinSeries (fixSquare a) 24 / fixOne) fixOne

/-- The magnitude of the sine of `t` half turns out of `N`, `t ≤ N`, folded at the quarter turn. -/
def sinHalfTurnMag (t N : Nat) : Nat :=
  roundMag (sinFix (fixPi * min t (N - t) / N) * oneUnit) fixOne

/-- `SINTURN` of rule R127: the binary32 value nearest `sin(2 pi k / N)`, "and `+0` where the real sine is
exactly 0" (log entry 3). The second half of the turn is the first one negated. -/
def sinTurn (k N : Nat) : F32 :=
  if 2 * k < N then fpack false (sinHalfTurnMag (2 * k) N)
  else fpack (decide (2 * k ≠ N)) (sinHalfTurnMag (2 * k - N) N)

/-- `K_SAW` of rule R129, the square root of 3/2. -/
def kSaw : F32 := 0x3F9CC471

/-- `K_SQ` of rule R129, the square root of 1/2. -/
def kSq : F32 := 0x3F3504F3

/-- `C_095` of rule R129. -/
def c095 : F32 := 0x3F733333

/-- `C_3` of rule R129. -/
def c3 : F32 := 0x40400000

/-- `C_1` of rule R129. -/
def c1 : F32 := 0x3F800000

/-- `C_127` of rule R129. -/
def c127 : F32 := 0x42FE0000

/-- `F_MIN` of rule R129, 10 Hz. -/
def fMin : F32 := 0x41200000

/-- `F_MAX` of rule R129: `fdiv(u2f(FS), f32(2))`. -/
def fMax : F32 := fdiv (u2f Config.FS) (u2f 2)

/-- `EFFRATE[u]` of rule R129: `fdiv(u2f(FS), u2f(DS[u]))`. -/
def effRate (u : OscUnit) : F32 := fdiv (u2f Config.FS) (u2f (Config.DS u))

/-- The 128 patterns of `NOTE_FREQ`, rule R130. -/
def noteFreqTable : List Word :=
  [0x4102D013, 0x410A9760, 0x4112D517, 0x411B9041, 0x4124D054, 0x412E9D37, 0x4138FF49, 0x4143FF6A] ++
  [0x414FA700, 0x415C0000, 0x416914F6, 0x4176F110, 0x4182D013, 0x418A9760, 0x4192D517, 0x419B9041] ++
  [0x41A4D054, 0x41AE9D37, 0x41B8FF49, 0x41C3FF6A, 0x41CFA700, 0x41DC0000, 0x41E914F6, 0x41F6F110] ++
  [0x4202D013, 0x420A9760, 0x4212D517, 0x421B9041, 0x4224D054, 0x422E9D37, 0x4238FF49, 0x4243FF6A] ++
  [0x424FA700, 0x425C0000, 0x426914F6, 0x4276F110, 0x4282D013, 0x428A9760, 0x4292D517, 0x429B9041] ++
  [0x42A4D054, 0x42AE9D37, 0x42B8FF49, 0x42C3FF6A, 0x42CFA700, 0x42DC0000, 0x42E914F6, 0x42F6F110] ++
  [0x4302D013, 0x430A9760, 0x4312D517, 0x431B9041, 0x4324D054, 0x432E9D37, 0x4338FF49, 0x4343FF6A] ++
  [0x434FA700, 0x435C0000, 0x436914F6, 0x4376F110, 0x4382D013, 0x438A9760, 0x4392D517, 0x439B9041] ++
  [0x43A4D054, 0x43AE9D37, 0x43B8FF49, 0x43C3FF6A, 0x43CFA700, 0x43DC0000, 0x43E914F6, 0x43F6F110] ++
  [0x4402D013, 0x440A9760, 0x4412D517, 0x441B9041, 0x4424D054, 0x442E9D37, 0x4438FF49, 0x4443FF6A] ++
  [0x444FA700, 0x445C0000, 0x446914F6, 0x4476F110, 0x4482D013, 0x448A9760, 0x4492D517, 0x449B9041] ++
  [0x44A4D054, 0x44AE9D37, 0x44B8FF49, 0x44C3FF6A, 0x44CFA700, 0x44DC0000, 0x44E914F6, 0x44F6F110] ++
  [0x4502D013, 0x450A9760, 0x4512D517, 0x451B9041, 0x4524D054, 0x452E9D37, 0x4538FF49, 0x4543FF6A] ++
  [0x454FA700, 0x455C0000, 0x456914F6, 0x4576F110, 0x4582D013, 0x458A9760, 0x4592D517, 0x459B9041] ++
  [0x45A4D054, 0x45AE9D37, 0x45B8FF49, 0x45C3FF6A, 0x45CFA700, 0x45DC0000, 0x45E914F6, 0x45F6F110] ++
  [0x4602D013, 0x460A9760, 0x4612D517, 0x461B9041, 0x4624D054, 0x462E9D37, 0x4638FF49, 0x4643FF6A]

/-- `NOTE_FREQ[key]` of rule R130, for `key` 0 to 127. -/
def noteFreq (key : Nat) : F32 := noteFreqTable.getD key 0

end Sys2Proof.Machine
end

