-- ==== Sys2Proof/Machine/Flags.lean ====
section
/-! DEFINITION. The report registers: error classes and their bits (rules R46, R260), result words (rule
R230), STATUS (rule R36). -/

namespace Sys2Proof.Machine

/-- The error classes of rule R260. -/
inductive ErrClass where
  /-- E_FREQ, InvalidFrequency. -/
  | freq
  /-- E_ENV, InvalidEnvelopeParams. -/
  | env
  /-- E_CAP, BufferCapacityExceeded. -/
  | cap
  /-- E_UNDERRUN, OutputUnderrun; set in ERR only. -/
  | underrun
  /-- E_ILLEGAL, this spec's own. -/
  | illegal
deriving DecidableEq, Repr

/-- The bit of an error class (rules R46, R260). -/
def ErrClass.bit : ErrClass → Word
  | .freq => 0x001
  | .env => 0x002
  | .cap => 0x004
  | .underrun => 0x008
  | .illegal => 0x010

/-- `Codes` of rule R12: a set of error classes, listed. The empty list is success. -/
abbrev Codes := List ErrClass

/-- "`word(c)` of a code set `c` is the OR of the bits of its members" (rule R260). -/
def codesWord (c : Codes) : Word := c.foldr (fun e w => e.bit ||| w) 0

/-- `REJ(u) = 0x100 << u` (rule R230). -/
def rejUnit : OscUnit → Word
  | .osc1 => 0x100
  | .osc2 => 0x200
  | .lfo => 0x400

/-- REJ_ENV (rules R230, R260). -/
def rejEnv : Word := 0x800

/-- `word(c) | (c != {} ? rej : 0)`, the result word of one update path (rules R155, R180). -/
def rejected (c : Codes) (rej : Word) : Word := codesWord c ||| (if c = [] then 0 else rej)

/-- The bits assigned in ERR (rule R46). -/
def errMask : Word := 0x00000F1F

/-- The bits assigned in RESULT: those of ERR but E_UNDERRUN (rules R44 (h), R46). -/
def resultMask : Word := 0x00000F17

/-- A status bit at its place. -/
def statusBit (b : Bool) (pos : Nat) : Word := if b then BitVec.ofNat 32 (2 ^ pos) else 0

/-- STATUS, "computed from other state at each read" (rule R36). -/
def statusWord (s : State) : Word :=
  statusBit s.run 0 ||| statusBit (s.oscSize.osc1 != 0) 1 ||| statusBit (s.oscSize.osc2 != 0) 2 |||
    statusBit (s.oscSize.lfo != 0) 3 ||| statusBit (s.adSize != 0) 4

end Sys2Proof.Machine
end

