-- ==== Sys2Proof/Machine/Ops.lean ====
section
/-! DEFINITION. The named operations over the sample buffers, the per-unit registers and the report
registers. SYNCORE takes no exception (rule R268): what stands in that place is `State.report`, the one
shared operation by which a command reports its outcome (rule R230). -/

namespace Sys2Proof.Machine

/-- The value of one unit. -/
def PerUnit.get {α : Type} (p : PerUnit α) : OscUnit → α
  | .osc1 => p.osc1
  | .osc2 => p.osc2
  | .lfo => p.lfo

/-- Replace the value of one unit. -/
def PerUnit.set {α : Type} (p : PerUnit α) (u : OscUnit) (x : α) : PerUnit α :=
  match u with
  | .osc1 => { p with osc1 := x }
  | .osc2 => { p with osc2 := x }
  | .lfo => { p with lfo := x }

/-- The written prefix of a buffer. -/
def Memory.contents (m : Memory) : BufId → List F32
  | .osc u => m.oscBuf.get u
  | .ad => m.adBuf
  | .rel => m.relBuf

/-- Replace the written prefix of a buffer. -/
def Memory.setContents (m : Memory) (b : BufId) (l : List F32) : Memory :=
  match b with
  | .osc u => { m with oscBuf := m.oscBuf.set u l }
  | .ad => { m with adBuf := l }
  | .rel => { m with relBuf := l }

/-- Entry `k` of a buffer: what the last update that reached it wrote, else its unspecified, stable reset
contents (rule R31, log entry 1). -/
def Memory.read (m : Memory) (b : BufId) (k : Nat) : F32 :=
  match (m.contents b)[k]? with
  | some v => v
  | none => Config.freeEntry m.epoch b k

/-- Write the entries 0, 1, ... of a buffer in ascending index and leave the others untouched: "a
successful update writes entries 0 to size-1 and leaves the others untouched" (rules R31, R243 (e)). -/
def Memory.fill (m : Memory) (b : BufId) (vals : List F32) : Memory :=
  m.setContents b (vals ++ (m.contents b).drop vals.length)

/-- The canonical form: no buffer holds more entries than its capacity (rules R29, R30). -/
abbrev Memory.wf (m : Memory) : Prop :=
  m.oscBuf.osc1.length ≤ Config.OSC_BUF_CAP ∧ m.oscBuf.osc2.length ≤ Config.OSC_BUF_CAP ∧
    m.oscBuf.lfo.length ≤ Config.OSC_BUF_CAP ∧ m.adBuf.length ≤ Config.ENV_AD_CAP ∧
    m.relBuf.length ≤ Config.ENV_REL_CAP

/-- How a command ends: "`RESULT <- r` and `ERR <- ERR | r`" (rule R230). -/
def State.report (s : State) (r : Word) : State := { s with result := r, err := s.err ||| r }

/-- An illegal command word: "`RESULT <- E_ILLEGAL`, `ERR <- ERR | E_ILLEGAL`, and no other state changes"
(rule R96). -/
def State.reportIllegal (s : State) : State := s.report ErrClass.illegal.bit

/-- A shortfall of the sink: ERR bit 3 is set and UNDERRUNS is incremented, saturating (rule R209). -/
def State.reportUnderrun (s : State) : State :=
  { s with
    err := s.err ||| ErrClass.underrun.bit
    underruns := BitVec.ofNat 32 (min (s.underruns.toNat + 1) 0xFFFFFFFF) }

/-- The reset event: every piece of state at its value of rule R45, the buffers' contents unspecified anew
(rule R290). What is still to come and the label of the step are no state of SYNCORE. -/
def State.resetNow (s : State) : State :=
  { State.reset with
    mem := { State.reset.mem with epoch := s.mem.epoch + 1 }
    inputs := s.inputs
    label := s.label }

end Sys2Proof.Machine
end

