-- ==== Sys2Proof/Machine/Operands.lean ====
section
/-! DEFINITION. The operands a command reads from STG and ACT (rules R24, R25, R243 (c)), and the 64-byte
image of ACT (rule R27). -/

namespace Sys2Proof.Machine

/-- The waveform a word of the image names; 3 to 0xFFFFFFFF are reserved (rule R24). -/
def waveOfWord? (w : Word) : Option Wave :=
  match w.toNat with
  | 0 => some .sine
  | 1 => some .sawtooth
  | 2 => some .square
  | _ => none

/-- `zext_32` of a waveform: 0 Sine, 1 Sawtooth, 2 Square (rules R12, R24, R27). -/
def waveToWord : Wave → Word
  | .sine => 0
  | .sawtooth => 1
  | .square => 2

/-- The argument of `OscUpdate`: "a triple `(amp : F32, freq : F32, waveWord : word)`" (rule R152). -/
structure OscRequest where
  amp : F32
  freq : F32
  waveWord : Word
deriving DecidableEq, Repr

/-- `STG[i]`. -/
def State.stgWord (s : State) (i : Nat) : Word := s.stg.toList.getD i 0

/-- `(STG[3u], STG[3u+1], STG[3u+2])`, the staged record of a unit (rule R155). -/
def State.stgOsc (s : State) (u : OscUnit) : OscRequest where
  amp := s.stgWord (3 * u.index)
  freq := s.stgWord (3 * u.index + 1)
  waveWord := s.stgWord (3 * u.index + 2)

/-- `STG[9]` to `STG[13]`, the staged envelope record (rule R180). -/
def State.stgEnv (s : State) : EnvParams where
  attack := s.stgWord 9
  decay := s.stgWord 10
  release := s.stgWord 11
  sustain := s.stgWord 12
  amplitude := s.stgWord 13

/-- `STG[14][0]`, `STG[14][1]` and `STG[15]`, the staged synth record; `STG[14][31:2]` is ignored (rule
R226). -/
def State.stgSynth (s : State) : SynthParams where
  lfoEnabled := (s.stgWord 14).getLsbD 0
  osc2SyncEnabled := (s.stgWord 14).getLsbD 1
  noiseAmplitude := s.stgWord 15

/-- The active record of a unit as an argument of `OscUpdate` (rules R156 to R158, R228). -/
def State.actOsc (s : State) (u : OscUnit) : OscRequest where
  amp := (s.act.osc.get u).amplitude
  freq := (s.act.osc.get u).frequency
  waveWord := waveToWord (s.act.osc.get u).waveform

/-- Word 14 of the image: "`{30 zero bits, ACT.synth.osc2SyncEnabled, ACT.synth.lfoEnabled}`" (rule R27). -/
def SynthParams.flagsWord (p : SynthParams) : Word :=
  BitVec.ofNat 32 (2 * p.osc2SyncEnabled.toNat + p.lfoEnabled.toNat)

/-- `Image(ACT)`, the 16 words of rule R27 in the layout of rule R24. -/
def Act.image (a : Act) : Vector Word 16 :=
  #v[a.osc.osc1.amplitude, a.osc.osc1.frequency, waveToWord a.osc.osc1.waveform,
    a.osc.osc2.amplitude, a.osc.osc2.frequency, waveToWord a.osc.osc2.waveform,
    a.osc.lfo.amplitude, a.osc.lfo.frequency, waveToWord a.osc.lfo.waveform,
    a.env.attack, a.env.decay, a.env.release, a.env.sustain, a.env.amplitude,
    a.synth.flagsWord, a.synth.noiseAmplitude]

end Sys2Proof.Machine
end

