-- ==== Sys2Proof/Machine/Envelope.lean ====
section
/-! DEFINITION. The envelope generator (42_envelope.md): `EnvUpdate` and its curves, trigger and release
marks, the lookup `EnvValueAt`, and the command ENV_UPDATE. -/

namespace Sys2Proof.Machine

/-- `EnvSamples(d)` of rule R171. -/
def envSamples (d : F32) : Nat := f2nTrunc (fdiv (fmul d (u2f Config.FS)) (u2f Config.DS_ENV))

/-- `EnvT(k)` of rule R173, the time of entry `k` in seconds. -/
def envT (k : Nat) : F32 := fdiv (u2f (k * Config.DS_ENV)) (u2f Config.FS)

/-- `EnvX(k, D)` of rule R173, `3t/D`. -/
def envX (k : Nat) (D : F32) : F32 := fdiv (fmul c3 (envT k)) D

/-- `EnvDecayFactor(k, D)` of rule R173, `e^(-3t/D)`. -/
def envDecayFactor (k : Nat) (D : F32) : F32 := fexp (fneg (envX k D))

/-- Attack entry `k` of rule R174. -/
def attackEntry (p : EnvParams) (k : Nat) : F32 :=
  fmul p.amplitude (fsub c1 (envDecayFactor k p.attack))

/-- Decay entry `j` of rule R174. -/
def decayEntry (p : EnvParams) (j : Nat) : F32 :=
  fmul (fmul c095 p.amplitude)
    (fsub c1 (fmul (fsub c1 p.sustain) (fsub c1 (envDecayFactor j p.decay))))

/-- Entry `k` of the attack-decay curve, whose attack segment has `aS` entries (rule R174). -/
def adEntry (p : EnvParams) (aS k : Nat) : F32 :=
  if k < aS then attackEntry p k else decayEntry p (k - aS)

/-- Release entry `k` of rule R174, from the last attack-decay value. -/
def releaseEntry (p : EnvParams) (last : F32) (k : Nat) : F32 :=
  fmul last (envDecayFactor k p.release)

/-- The three lengths of step 2 of rule R172: attack, decay and release samples. -/
structure EnvLengths where
  attack : Nat
  decay : Nat
  release : Nat
deriving DecidableEq, Repr

/-- `EnvSamples` of the three durations (rule R172 step 2). -/
def envLengths (p : EnvParams) : EnvLengths where
  attack := envSamples p.attack
  decay := envSamples p.decay
  release := envSamples p.release

/-- `adBuf[aS + dS - 1]`, the last attack-decay value (rule R174). -/
def lastEntry (p : EnvParams) (z : EnvLengths) : F32 :=
  adEntry p z.attack (z.attack + z.decay - 1)

/-- The attack-decay curve of rule R174. -/
def adCurve (p : EnvParams) (z : EnvLengths) : List F32 :=
  (List.range (z.attack + z.decay)).map (adEntry p z.attack)

/-- The release curve of rule R174. -/
def releaseCurve (p : EnvParams) (z : EnvLengths) : List F32 :=
  (List.range z.release).map (releaseEntry p (lastEntry p z))

/-- The ranges step 1 of rule R172 checks. -/
def envRangesOk (p : EnvParams) : Bool :=
  flt 0 p.attack && flt 0 p.decay && flt 0 p.release && fle 0 p.sustain && fle p.sustain c1

/-- Steps 1 to 4 of rule R172: the lengths of an accepted record, or the codes of the first failing
check. -/
def envCheck (p : EnvParams) : Except Codes EnvLengths :=
  if envRangesOk p then
    if Config.ENV_AD_CAP < (envLengths p).attack + (envLengths p).decay ∨
        Config.ENV_REL_CAP < (envLengths p).release then .error [.env, .cap]
    else if (envLengths p).attack + (envLengths p).decay = 0 then .error [.env]
    else .ok (envLengths p)
  else .error [.env]

/-- Step 5 of rule R172: store the record, its sizes and its curves. -/
def envStore (p : EnvParams) (z : EnvLengths) (s : State) : State :=
  { s with
    act := { s.act with env := p }
    atkSize := z.attack
    adSize := z.attack + z.decay
    relSize := z.release
    mem := (s.mem.fill .ad (adCurve p z)).fill .rel (releaseCurve p z) }

/-- `EnvUpdate(new)` of rule R172: the code set it returns and the state it leaves; "a `reject` changes
nothing". -/
def envUpdate (p : EnvParams) (s : State) : Codes × State :=
  match envCheck p with
  | .error c => (c, s)
  | .ok z => ([], envStore p z s)

/-- `EnvTrigger(g)` of rule R176. -/
def envTrigger (g : Word) (s : State) : State := { s with trigOfs := g, relOfs := 0xFFFFFFFF }

/-- `EnvRelease(g)` of rule R177. -/
def envRelease (g : Word) (s : State) : State := { s with relOfs := g }

/-- The branch of `EnvValueAt` after the release mark (rule R178). -/
def releaseLookup (s : State) (idx : Nat) : F32 := if idx < s.relSize then s.mem.read .rel idx else 0

/-- The branch of `EnvValueAt` after the trigger mark: the last entry is held (rule R178). -/
def attackDecayLookup (s : State) (idx : Nat) : F32 :=
  if idx < s.adSize then s.mem.read .ad idx else s.mem.read .ad (s.adSize - 1)

/-- `EnvValueAt(g)` of rule R178; the comparisons are unsigned (rule R131 (b)). -/
def envValueAt (s : State) (g : Word) : F32 :=
  if s.adSize = 0 then 0
  else if s.relOfs.toNat < g.toNat then
    releaseLookup s ((g.toNat - s.relOfs.toNat) / Config.DS_ENV)
  else if s.trigOfs.toNat < g.toNat then
    attackDecayLookup s ((g.toNat - s.trigOfs.toNat) / Config.DS_ENV)
  else 0

/-- ENV_UPDATE, rule R180. -/
def execEnvUpdate (s : State) : Host.Outcome State Fault Refusal :=
  .next ((envUpdate s.stgEnv s).2.report (rejected (envUpdate s.stgEnv s).1 rejEnv))

end Sys2Proof.Machine
end

