-- ==== Sys2Proof/Machine/Waveform.lean ====
section
/-! DEFINITION. The waveform generator `Generate` (rules R135 to R139). -/

namespace Sys2Proof.Machine

/-- Sine, rule R136: `out[k] = fmul(A, SINTURN(k, N))`. -/
def sineEntry (A : F32) (N k : Nat) : F32 := fmul A (sinTurn k N)

/-- Sawtooth, rule R137: `out[k] = fmul(fmul(A, K_SAW), fdiv(u2f(k), u2f(N)))`. -/
def sawtoothEntry (A : F32) (N k : Nat) : F32 := fmul (fmul A kSaw) (fdiv (u2f k) (u2f N))

/-- Square, rule R138: `fmul(A, K_SQ)` while `2 * k < N`, then its negation. -/
def squareEntry (A : F32) (N k : Nat) : F32 := if 2 * k < N then fmul A kSq else fneg (fmul A kSq)

/-- Entry `k` of `Generate(wave, A, N)` (rule R135). -/
def generateEntry (wave : Wave) (A : F32) (N k : Nat) : F32 :=
  match wave with
  | .sine => sineEntry A N k
  | .sawtooth => sawtoothEntry A N k
  | .square => squareEntry A N k

/-- `Generate(wave, A, N)`: `N` values, a pure function (rule R135). -/
def generate (wave : Wave) (A : F32) (N : Nat) : List F32 :=
  (List.range N).map (generateEntry wave A N)

end Sys2Proof.Machine
end

