-- ==== Sys2Proof/Machine/Oscillator.lean ====
section
/-! DEFINITION. The oscillator unit (41_oscillator.md): `OscUpdate`, the two lookups, and the commands
OSC_UPDATE, OSC_SET_AMP, OSC_SET_FREQ, OSC_SET_WAVE. -/

namespace Sys2Proof.Machine

/-- The product step 2 of rule R152 compares: `fmul(freq, u2f(DS[u]))`. -/
def oscProduct (u : OscUnit) (freq : F32) : F32 := fmul freq (u2f (Config.DS u))

/-- The validation of step 2 of rule R152: `fle(F_MIN, p) and fle(p, F_MAX)`. -/
def oscFreqOk (u : OscUnit) (freq : F32) : Bool :=
  fle fMin (oscProduct u freq) && fle (oscProduct u freq) fMax

/-- The period length of step 3 of rule R152: `f2n_round(fdiv(EFFRATE[u], freq))`. -/
def oscPeriod (u : OscUnit) (freq : F32) : Nat := f2nRound (fdiv (effRate u) freq)

/-- Steps 1 to 4 of rule R152: the waveform and the period length of an accepted record, or the codes of
the first failing check. -/
def oscCheck (u : OscUnit) (new : OscRequest) : Except Codes (Wave × Nat) :=
  match waveOfWord? new.waveWord with
  | none => .error [.illegal]
  | some w =>
    if oscFreqOk u new.freq then
      if oscPeriod u new.freq < 2 ∨ Config.OSC_BUF_CAP < oscPeriod u new.freq then
        .error [.freq, .cap]
      else .ok (w, oscPeriod u new.freq)
    else .error [.freq]

/-- Step 5 of rule R152: store the record, regenerate the buffer, store its size. -/
def oscStore (u : OscUnit) (new : OscRequest) (w : Wave) (n : Nat) (s : State) : State :=
  { s with
    act :=
      { s.act with
        osc := s.act.osc.set u { amplitude := new.amp, frequency := new.freq, waveform := w } }
    oscSize := s.oscSize.set u n
    mem := s.mem.fill (.osc u) (generate w new.amp n) }

/-- `OscUpdate(u, new)` of rule R152: the code set it returns and the state it leaves; "a `reject` changes
nothing". -/
def oscUpdate (u : OscUnit) (new : OscRequest) (s : State) : Codes × State :=
  match oscCheck u new with
  | .error c => (c, s)
  | .ok (w, n) => ([], oscStore u new w n s)

/-- A command that runs one `OscUpdate` and reports its outcome (rules R155 to R158, R230). -/
def oscCommand (u : OscUnit) (new : OscRequest) (s : State) : Host.Outcome State Fault Refusal :=
  .next ((oscUpdate u new s).2.report (rejected (oscUpdate u new s).1 (rejUnit u)))

/-- OSC_UPDATE unit, rule R155. -/
def execOscUpdate (u : OscUnit) (s : State) : Host.Outcome State Fault Refusal :=
  oscCommand u (s.stgOsc u) s

/-- OSC_SET_AMP unit, rule R156: the active record with the staged amplitude. -/
def execOscSetAmp (u : OscUnit) (s : State) : Host.Outcome State Fault Refusal :=
  oscCommand u { s.actOsc u with amp := (s.stgOsc u).amp } s

/-- OSC_SET_FREQ unit, rule R157: the active record with the staged frequency. -/
def execOscSetFreq (u : OscUnit) (s : State) : Host.Outcome State Fault Refusal :=
  oscCommand u { s.actOsc u with freq := (s.stgOsc u).freq } s

/-- OSC_SET_WAVE unit, rule R158: the active record with the staged waveform word. -/
def execOscSetWave (u : OscUnit) (s : State) : Host.Outcome State Fault Refusal :=
  oscCommand u { s.actOsc u with waveWord := (s.stgOsc u).waveWord } s

/-- The phase position of unit `u` at a global offset: `(g div DS[u]) mod oscSize[u]` (rules R153, R154). -/
def oscPhase (u : OscUnit) (s : State) (g : Word) : Nat := g.toNat / Config.DS u % s.oscSize.get u

/-- `OscSampleAt(u, g)` of rule R153; an unconfigured unit looks up as +0. -/
def oscSampleAt (u : OscUnit) (s : State) (g : Word) : F32 :=
  if s.oscSize.get u = 0 then 0 else s.mem.read (.osc u) (oscPhase u s g)

/-- `Osc2SyncAt(g)` of rule R154: OSC2's buffer indexed by OSC1's phase position. -/
def osc2SyncAt (s : State) (g : Word) : F32 :=
  if s.oscSize.get .osc1 = 0 ∨ s.oscSize.get .osc2 = 0 then 0
  else s.mem.read (.osc .osc2) (oscPhase .osc1 s g % s.oscSize.get .osc2)

end Sys2Proof.Machine
end

