-- ==== Sys2Proof/Machine/ParamStore.lean ====
section
/-! DEFINITION. The parameter store's commands (44_param_store.md): housekeeping, the synth record, the full
update, the snapshot and the two key events. -/

namespace Sys2Proof.Machine

/-- NOP, rule R221: `r <- 0`. -/
def execNop (s : State) : Host.Outcome State Fault Refusal := .next (s.report 0)

/-- START, rule R222: `run <- 1; r <- 0`. -/
def execStart (s : State) : Host.Outcome State Fault Refusal :=
  .next ({ s with run := true }.report 0)

/-- Replace the synth record of ACT. -/
def State.setSynth (s : State) (p : SynthParams) : State := { s with act := { s.act with synth := p } }

/-- SET_LFO_EN flag, rule R223. -/
def execSetLfoEn (flag : Bool) (s : State) : Host.Outcome State Fault Refusal :=
  .next ((s.setSynth { s.act.synth with lfoEnabled := flag }).report 0)

/-- SET_SYNC_EN flag, rule R224. -/
def execSetSyncEn (flag : Bool) (s : State) : Host.Outcome State Fault Refusal :=
  .next ((s.setSynth { s.act.synth with osc2SyncEnabled := flag }).report 0)

/-- SET_NOISE, rule R225. -/
def execSetNoise (s : State) : Host.Outcome State Fault Refusal :=
  .next ((s.setSynth { s.act.synth with noiseAmplitude := s.stgWord 15 }).report 0)

/-- The five parts of APPLY_FULL in the order of rule R226, and its result word. "A failure in one does not
roll back the others": each part runs on what the part before it left. -/
def applyFull (s : State) : Word × State :=
  let s0 := s.setSynth s.stgSynth
  let (e0, s1) := oscUpdate .osc1 (s.stgOsc .osc1) s0
  let (e1, s2) := oscUpdate .osc2 (s.stgOsc .osc2) s1
  let (e2, s3) := oscUpdate .lfo (s.stgOsc .lfo) s2
  let (e3, s4) := envUpdate s.stgEnv s3
  (rejected e0 (rejUnit .osc1) ||| rejected e1 (rejUnit .osc2) ||| rejected e2 (rejUnit .lfo) |||
    rejected e3 rejEnv, s4)

/-- APPLY_FULL, rule R226. -/
def execApplyFull (s : State) : Host.Outcome State Fault Refusal :=
  .next ((applyFull s).2.report (applyFull s).1)

/-- SNAPSHOT, rule R227: `SNAP[0..15] <- Image(ACT); r <- 0`. -/
def execSnapshot (s : State) : Host.Outcome State Fault Refusal :=
  .next ({ s with snap := s.act.image }.report 0)

/-- `fdiv(u2f(vel), C_127)`, the envelope amplitude of a key press (rule R228). -/
def velocityAmplitude (vel : Nat) : F32 := fdiv (u2f vel) c127

/-- The four actions of KEY_PRESS in the order of rule R228, each whatever the others' success, and its
result word. -/
def keyPress (key vel : Nat) (s : State) : Word × State :=
  let s0 := { s with lastKey := BitVec.ofNat 8 key }
  let (e1, s1) := oscUpdate .osc1 { s0.actOsc .osc1 with freq := noteFreq key } s0
  let (e2, s2) := envUpdate { s1.act.env with amplitude := velocityAmplitude vel } s1
  (rejected e1 (rejUnit .osc1) ||| rejected e2 rejEnv, envTrigger s2.curOfs s2)

/-- KEY_PRESS key, vel, rule R228. -/
def execKeyPress (key vel : Nat) (s : State) : Host.Outcome State Fault Refusal :=
  .next ((keyPress key vel s).2.report (keyPress key vel s).1)

/-- The action of KEY_RELEASE (rule R229): "releases the envelope at the current global offset only if key
equals last-pressed-key". -/
def keyRelease (key : Nat) (s : State) : State :=
  if key = s.lastKey.toNat then envRelease s.curOfs s else s

/-- KEY_RELEASE key, rule R229. -/
def execKeyRelease (key : Nat) (s : State) : Host.Outcome State Fault Refusal :=
  .next ((keyRelease key s).report 0)

end Sys2Proof.Machine
end

