-- ==== Sys2Proof/Machine/Dispatch.lean ====
section
/-! DEFINITION. The command dispatcher: one arm per constructor of `Instr`. -/

namespace Sys2Proof.Machine

def exec (i : Instr) (s : State) : Host.Outcome State Fault Refusal :=
  match i with
  | .nop => Sys2Proof.Machine.execNop s
  | .start => Sys2Proof.Machine.execStart s
  | .oscUpdate u => Sys2Proof.Machine.execOscUpdate u s
  | .oscSetAmp u => Sys2Proof.Machine.execOscSetAmp u s
  | .oscSetFreq u => Sys2Proof.Machine.execOscSetFreq u s
  | .oscSetWave u => Sys2Proof.Machine.execOscSetWave u s
  | .envUpdate => Sys2Proof.Machine.execEnvUpdate s
  | .setLfoEn f => Sys2Proof.Machine.execSetLfoEn f s
  | .setSyncEn f => Sys2Proof.Machine.execSetSyncEn f s
  | .setNoise => Sys2Proof.Machine.execSetNoise s
  | .applyFull => Sys2Proof.Machine.execApplyFull s
  | .snapshot => Sys2Proof.Machine.execSnapshot s
  | .keyPress k v => Sys2Proof.Machine.execKeyPress k v s
  | .keyRelease k => Sys2Proof.Machine.execKeyRelease k s

end Sys2Proof.Machine
end

