-- ==== Sys2Proof/Machine/Mixer.lean ====
section
/-! DEFINITION. The mixing engine (43_mixer.md): one sample, one audio period, PRODUCE and the period
tick. -/

namespace Sys2Proof.Machine

/-- The global offset of sample `i`: `(curOfs + i) mod 2^32` (rule R200 step 1). -/
def sampleOffset (s : State) (i : Nat) : Word := s.curOfs + BitVec.ofNat 32 i

/-- Step 3 of rule R200: the LFO's sample, or the neutral 1 when it is disabled. -/
def lfoFactor (s : State) (g : Word) : F32 := if s.act.synth.lfoEnabled then oscSampleAt .lfo s g else c1

/-- Step 4 of rule R200: OSC2 in hard sync or free running. -/
def osc2Value (s : State) (g : Word) : F32 :=
  if s.act.synth.osc2SyncEnabled then osc2SyncAt s g else oscSampleAt .osc2 s g

/-- Step 5 of rule R200: `fmul(fmul(env, lfo), fadd(o1, o2))`, no fused operation (rule R202). -/
def mixSample (s : State) (g : Word) : F32 :=
  fmul (fmul (envValueAt s g) (lfoFactor s g)) (fadd (oscSampleAt .osc1 s g) (osc2Value s g))

/-- The cast sample `q` of index `i` (rules R200, R203). -/
def periodSample (s : State) (i : Nat) : I16 := f2i16 (mixSample s (sampleOffset s i))

/-- `out[0 .. PERIOD_SAMPLES*NCH - 1]`: sample `i` at the positions `i*NCH + c` for every channel `c`
(rules R63, R200 step 6). -/
def periodOut (s : State) : List I16 :=
  (List.range Config.PERIOD_SAMPLES).flatMap fun i => List.replicate Config.NCH (periodSample s i)

/-- The byte layout of a period: two bytes a value, low byte first (rule R63). -/
def periodBytes (out : List I16) : List Byte :=
  out.flatMap fun q => [q.extractLsb' 0 8, q.extractLsb' 8 8]

/-- The bytes of a period the sink took: the first `accepted` (rule R210). -/
def sinkBytes (out : List I16) (accepted : Nat) : List Byte := (periodBytes out).take accepted

/-- `curOfs <- (curOfs + PERIOD_SAMPLES) mod 2^32`, the only write of `curOfs` (rule R208). -/
def State.advance (s : State) : State := { s with curOfs := s.curOfs + BitVec.ofNat 32 Config.PERIOD_SAMPLES }

/-- What PRODUCE writes: a shortfall's report and the counter (rules R200, R209). -/
def produceState (accepted : Nat) (s : State) : State :=
  if accepted < Config.PERIOD_BYTES then s.reportUnderrun.advance else s.advance

/-- PRODUCE, rule R200: the period is handed to the sink, which took `accepted` bytes. -/
def produce (accepted : Nat) (s : State) : State :=
  { produceState accepted s with label := .period (periodOut s) accepted }

/-- A period tick: one PRODUCE while `run = 1`; otherwise it "has no effect at all (it is discarded, not
remembered)" (rule R201). -/
def servePeriodTick (accepted : Nat) (s : State) : State :=
  if s.run then produce accepted s else { s with label := .tickDiscarded }

end Sys2Proof.Machine
end

