-- ==== Sys2Proof/Machine/Bus.lean ====
section
/-! DEFINITION. The host's register accesses (20_memory.md): the register map, `RegRead`, `RegWrite`, bad
accesses, and how one event of the outside world is served. -/

namespace Sys2Proof.Machine

/-- The registers of the map of rule R41. -/
inductive Reg where
  | stg (i : Fin 16)
  | snap (i : Fin 16)
  | cmd
  | status
  | result
  | err
  | offset
  | trigOfs
  | relOfs
  | lastKey
  | bufSize (u : OscUnit)
  | atkSize
  | adSize
  | relSize
  | underruns
  | peekAddr
  | peekData
deriving DecidableEq, Repr

/-- The register that word `n` of the register space holds; from 0x0C4 on the space is unmapped (rules R41,
R68). -/
def Reg.atIndex? (n : Nat) : Option Reg :=
  if h : n < 16 then some (.stg ⟨n, h⟩)
  else if h : n - 16 < 16 then some (.snap ⟨n - 16, h⟩)
  else
    match n with
    | 0x20 => some .cmd
    | 0x21 => some .status
    | 0x22 => some .result
    | 0x23 => some .err
    | 0x24 => some .offset
    | 0x25 => some .trigOfs
    | 0x26 => some .relOfs
    | 0x27 => some .lastKey
    | 0x28 => some (.bufSize .osc1)
    | 0x29 => some (.bufSize .osc2)
    | 0x2A => some (.bufSize .lfo)
    | 0x2B => some .atkSize
    | 0x2C => some .adSize
    | 0x2D => some .relSize
    | 0x2E => some .underruns
    | 0x2F => some .peekAddr
    | 0x30 => some .peekData
    | _ => none

/-- The register an access reaches: "a read or a write of 32 bits at an offset that is a multiple of 4"
(rule R64) to a mapped offset (rule R68); `none` is a bad or unmapped access (rule R65). -/
def regAt? (width : AccessWidth) (offset : BitVec 12) : Option Reg :=
  if width = .word ∧ offset.toNat % 4 = 0 then Reg.atIndex? (offset.toNat / 4) else none

/-- The buffer the `sel` field of PEEKADDR names; 5 to 7 name none (rule R38). -/
def bufOfSel? : Nat → Option BufId
  | 0 => some (.osc .osc1)
  | 1 => some (.osc .osc2)
  | 2 => some (.osc .lfo)
  | 3 => some .ad
  | 4 => some .rel
  | _ => none

/-- `sel` of rule R38, bits 18:16 of PEEKADDR. -/
def State.peekSel (s : State) : Nat := s.peekAddr.toNat / 2 ^ 16

/-- `idx` of rule R38, bits 15:0 of PEEKADDR. -/
def State.peekIdx (s : State) : Nat := s.peekAddr.toNat % 2 ^ 16

/-- PEEKDATA (rule R38): the entry PEEKADDR names, 0 where it names none. -/
def peekData (s : State) : Word :=
  match bufOfSel? s.peekSel with
  | some b => if s.peekIdx < Config.capacity b then s.mem.read b s.peekIdx else 0
  | none => 0

/-- `RegRead` of rule R66. -/
def regRead (r : Reg) (s : State) : Word :=
  match r with
  | .stg i => s.stg[i]
  | .snap i => s.snap[i]
  | .cmd => 0
  | .status => statusWord s
  | .result => s.result
  | .err => s.err
  | .offset => s.curOfs
  | .trigOfs => s.trigOfs
  | .relOfs => s.relOfs
  | .lastKey => s.lastKey.setWidth 32
  | .bufSize u => BitVec.ofNat 32 (s.oscSize.get u)
  | .atkSize => BitVec.ofNat 32 s.atkSize
  | .adSize => BitVec.ofNat 32 s.adSize
  | .relSize => BitVec.ofNat 32 s.relSize
  | .underruns => s.underruns
  | .peekAddr => s.peekAddr.setWidth 32
  | .peekData => peekData s

/-- A write to CMD: decode the word and run the command; an illegal word is reported (rules R92, R96,
R230). -/
def writeCmd (w : Word) (s : State) : Host.Outcome State Fault Refusal :=
  match decodeWord w with
  | .ok i => exec i s
  | .error _ => .next s.reportIllegal

/-- `RegWrite` of rule R67: STG, ERR (write one to clear) and PEEKADDR store, CMD executes, every other
mapped register ignores the write. -/
def regWrite (r : Reg) (v : Word) (s : State) : Host.Outcome State Fault Refusal :=
  match r with
  | .stg i => .next { s with stg := s.stg.set i v }
  | .snap _ => .next s
  | .cmd => writeCmd v s
  | .status => .next s
  | .result => .next s
  | .err => .next { s with err := s.err &&& ~~~v }
  | .offset => .next s
  | .trigOfs => .next s
  | .relOfs => .next s
  | .lastKey => .next s
  | .bufSize _ => .next s
  | .atkSize => .next s
  | .adSize => .next s
  | .relSize => .next s
  | .underruns => .next s
  | .peekAddr => .next { s with peekAddr := v.setWidth 19 }
  | .peekData => .next s

/-- A host read: the word the register holds, no state changed (rules R66, R240); a bad access is answered
with a bus error and the data value 0 (rule R65). -/
def hostRead (width : AccessWidth) (offset : BitVec 12) (s : State) : Host.Outcome State Fault Refusal :=
  match regAt? width offset with
  | some r => .next { s with label := .readData (regRead r s) }
  | none => .next { s with label := .readError 0 }

/-- A host write (rules R67, R241); a bad access is answered with a bus error (rule R65). -/
def hostWrite (width : AccessWidth) (offset : BitVec 12) (v : Word) (s : State) :
    Host.Outcome State Fault Refusal :=
  match regAt? width offset with
  | some r => regWrite r v { s with label := .written }
  | none => .next { s with label := .writeError }

/-- The offset of CMD (rule R39). -/
def cmdOffset : BitVec 12 := 0x080

/-- One event of the outside world, served as one atomic step (rules R14, R75, R290). -/
def serve (e : Event) (s : State) : Host.Outcome State Fault Refusal :=
  match e with
  | .read width offset => hostRead width offset s
  | .write width offset v => hostWrite width offset v s
  | .tick accepted => .next (servePeriodTick accepted.val s)
  | .reset => .next { s.resetNow with label := .resetDone }

/-- A step when nothing asks for one: the block "waits for register accesses" (rule R290, log entry 4). -/
def idleStep (s : State) : State := { s with label := .idle }

end Sys2Proof.Machine
end

