-- ==== Sys2Proof/Machine/Step.lean ====
section
/-! DEFINITION. One step of the machine: the first waiting event of the schedule is served (rules R14, R75). -/

namespace Sys2Proof.Machine

/-- The step: "Every step is atomic" (rule R75). -/
def step (s : State) : Host.Outcome State Fault Refusal :=
  match s.inputs with
  | [] => .next (idleStep s)
  | e :: rest => serve e { s with inputs := rest }

/-- SYNCORE fetches nothing (rule R2): a command runs when the host writes its word to CMD. This puts that
write, of the word with the given bits, in front of the schedule (log entry 6). -/
def State.withFetchWord (s : State) (nbits w : Nat) : State :=
  { s with inputs := .write .word cmdOffset (BitVec.ofNat 32 (w % 2 ^ nbits)) :: s.inputs }

end Sys2Proof.Machine
end

