-- ==== Sys2Proof/Safety.lean ====
section
/-! DEFINITION. What a safe state and a safe run of SYNCORE are, and the relations the claims are stated in. -/

namespace Sys2Proof.Machine

/-- The valid period of an accepted unit is what its parameters generate (rule R44 (b)). -/
def OscValid (s : State) (u : OscUnit) : Prop :=
  oscCheck u (s.actOsc u) = .ok ((s.act.osc.get u).waveform, s.oscSize.get u) ∧
    ∀ k < s.oscSize.get u,
      s.mem.read (.osc u) k =
        generateEntry (s.act.osc.get u).waveform (s.act.osc.get u).amplitude (s.oscSize.get u) k

/-- The lengths the envelope's size registers say. -/
def State.envLengths (s : State) : EnvLengths where
  attack := s.atkSize
  decay := s.adSize - s.atkSize
  release := s.relSize

/-- The buffers of an accepted envelope are what its parameters compute (rule R44 (d)). -/
def EnvValid (s : State) : Prop :=
  envCheck s.act.env = .ok s.envLengths ∧
    (∀ k < s.adSize, s.mem.read .ad k = adEntry s.act.env s.atkSize k) ∧
    ∀ k < s.relSize,
      s.mem.read .rel k = releaseEntry s.act.env (lastEntry s.act.env s.envLengths) k

/-- The words of SNAP keep the reserved bits 0 and name legal waveforms (rule R44 (g)). -/
def SnapLegal (v : Vector Word 16) : Prop :=
  v[2].toNat < 3 ∧ v[5].toNat < 3 ∧ v[8].toNat < 3 ∧ v[14] &&& ~~~0x00000003 = 0

/-- The invariants of rule R44 (a) to (d) and (f) to (h), with the buffers' canonical form: "the engine
never enters an unplayable state due to a bad parameter write". Rule R44 (e), which entries PRODUCE
reads, is the relation `SameAudible`. DEDUCED (log entry 8): an unconfigured part holds its reset record,
which rules R156, R158 and R228 rest on. -/
structure Inv (s : State) : Prop where
  mem_wf : s.mem.wf
  osc_size : ∀ u, s.oscSize.get u = 0 ∨
    2 ≤ s.oscSize.get u ∧ s.oscSize.get u ≤ Config.OSC_BUF_CAP
  osc_unconfigured : ∀ u, s.oscSize.get u = 0 → s.act.osc.get u = OscParams.reset
  osc_valid : ∀ u, s.oscSize.get u ≠ 0 → OscValid s u
  ad_size : s.adSize ≤ Config.ENV_AD_CAP
  atk_size : s.atkSize ≤ s.adSize
  rel_size : s.relSize ≤ Config.ENV_REL_CAP
  env_unconfigured : s.adSize = 0 → s.atkSize = 0 ∧ s.relSize = 0 ∧ s.act.env = State.reset.act.env
  env_valid : s.adSize ≠ 0 → EnvValid s
  last_key : s.lastKey.toNat < 128 ∨ s.lastKey = 0xFF
  snap_legal : SnapLegal s.snap
  result_bits : s.result &&& ~~~resultMask = 0
  err_bits : s.err &&& ~~~errMask = 0

/-- Two states PRODUCE cannot tell apart: all that "the output of a PRODUCE is a function of" (rule R204),
the buffers only below their sizes (rule R44 (e)). -/
structure SameAudible (s t : State) : Prop where
  cur_ofs : s.curOfs = t.curOfs
  lfo_enabled : s.act.synth.lfoEnabled = t.act.synth.lfoEnabled
  sync_enabled : s.act.synth.osc2SyncEnabled = t.act.synth.osc2SyncEnabled
  osc_size : ∀ u, s.oscSize.get u = t.oscSize.get u
  osc_buf : ∀ u, ∀ k < s.oscSize.get u, s.mem.read (.osc u) k = t.mem.read (.osc u) k
  ad_size : s.adSize = t.adSize
  ad_buf : ∀ k < s.adSize, s.mem.read .ad k = t.mem.read .ad k
  rel_size : s.relSize = t.relSize
  rel_buf : ∀ k < s.relSize, s.mem.read .rel k = t.mem.read .rel k
  trig_ofs : s.trigOfs = t.trigOfs
  rel_ofs : s.relOfs = t.relOfs

/-- Two states agree on one oscillator: its record, its size and every entry of its buffer. -/
structure SameOsc (u : OscUnit) (s t : State) : Prop where
  params : s.act.osc.get u = t.act.osc.get u
  size : s.oscSize.get u = t.oscSize.get u
  buf : ∀ k, s.mem.read (.osc u) k = t.mem.read (.osc u) k

/-- Two states agree on the envelope: its record, its sizes and every entry of its buffers. -/
structure SameEnv (s t : State) : Prop where
  params : s.act.env = t.act.env
  atk_size : s.atkSize = t.atkSize
  ad_size : s.adSize = t.adSize
  rel_size : s.relSize = t.relSize
  ad_buf : ∀ k, s.mem.read .ad k = t.mem.read .ad k
  rel_buf : ∀ k, s.mem.read .rel k = t.mem.read .rel k

/-- Two states agree on everything but the oscillators, the envelope, the synth record and the two report
registers a command writes. -/
structure SameRest (s t : State) : Prop where
  stg : s.stg = t.stg
  snap : s.snap = t.snap
  trig_ofs : s.trigOfs = t.trigOfs
  rel_ofs : s.relOfs = t.relOfs
  cur_ofs : s.curOfs = t.curOfs
  last_key : s.lastKey = t.lastKey
  run : s.run = t.run
  underruns : s.underruns = t.underruns
  peek_addr : s.peekAddr = t.peekAddr
  inputs : s.inputs = t.inputs
  label : s.label = t.label

/-- The commands whose rule calls `OscUpdate(u, ...)` (rules R155 to R158, R226, R228). -/
def updatesOsc (i : Instr) (u : OscUnit) : Bool :=
  match i with
  | .nop => false
  | .start => false
  | .oscUpdate v => v == u
  | .oscSetAmp v => v == u
  | .oscSetFreq v => v == u
  | .oscSetWave v => v == u
  | .envUpdate => false
  | .setLfoEn _ => false
  | .setSyncEn _ => false
  | .setNoise => false
  | .applyFull => true
  | .snapshot => false
  | .keyPress _ _ => u == .osc1
  | .keyRelease _ => false

/-- The commands whose rule calls `EnvUpdate` (rules R180, R226, R228). -/
def updatesEnv (i : Instr) : Bool :=
  match i with
  | .nop => false
  | .start => false
  | .oscUpdate _ => false
  | .oscSetAmp _ => false
  | .oscSetFreq _ => false
  | .oscSetWave _ => false
  | .envUpdate => true
  | .setLfoEn _ => false
  | .setSyncEn _ => false
  | .setNoise => false
  | .applyFull => true
  | .snapshot => false
  | .keyPress _ _ => true
  | .keyRelease _ => false

/-- The commands whose rule writes the synth record (rules R223 to R226). -/
def updatesSynth (i : Instr) : Bool :=
  match i with
  | .nop => false
  | .start => false
  | .oscUpdate _ => false
  | .oscSetAmp _ => false
  | .oscSetFreq _ => false
  | .oscSetWave _ => false
  | .envUpdate => false
  | .setLfoEn _ => true
  | .setSyncEn _ => true
  | .setNoise => true
  | .applyFull => true
  | .snapshot => false
  | .keyPress _ _ => false
  | .keyRelease _ => false

/-- The two key events (rules R228, R229). -/
def isKeyEvent (i : Instr) : Bool :=
  match i with
  | .nop => false
  | .start => false
  | .oscUpdate _ => false
  | .oscSetAmp _ => false
  | .oscSetFreq _ => false
  | .oscSetWave _ => false
  | .envUpdate => false
  | .setLfoEn _ => false
  | .setSyncEn _ => false
  | .setNoise => false
  | .applyFull => false
  | .snapshot => false
  | .keyPress _ _ => true
  | .keyRelease _ => true

/-- A word read of offset `off` answers `v` and changes no state. -/
def ReadAnswers (s : State) (off : Nat) (v : Word) : Prop :=
  ∀ rest, step { s with inputs := .read .word (BitVec.ofNat 12 off) :: rest } =
    .next { s with inputs := rest, label := .readData v }

/-- A word write of `v` to offset `off` leaves the registers and buffers of `t`. -/
def WriteLeaves (s : State) (off : Nat) (v : Word) (t : State) : Prop :=
  ∀ rest, step { s with inputs := .write .word (BitVec.ofNat 12 off) v :: rest } =
    .next { t with inputs := rest, label := .written }

/-- A finite pattern: neither an infinity nor a NaN (rule R120). -/
def isFinite (a : F32) : Prop := fmag a < infMag

/-- The value of a finite pattern. -/
def value (a : F32) : ℚ := (units a : ℚ) / 2 ^ 149

/-- The bound from which rounding to nearest overflows: the largest finite value and half its last place,
`2^128 - 2^103`. -/
def overflowBound : ℚ := 2 ^ 128 - 2 ^ 103

/-- `r` is the exact result `x` "rounded once" to nearest, ties to even, overflow giving an infinity of its
sign (rule R121). -/
def RoundsTo (r : F32) (x : ℚ) : Prop :=
  if overflowBound ≤ |x| then fmag r = infMag ∧ (fsign r = true ↔ x < 0)
  else isFinite r ∧ (x < 0 → fsign r = true) ∧ (0 < x → fsign r = false) ∧
    ∀ p : F32, isFinite p →
      |value r - x| ≤ |value p - x| ∧
        (|value r - x| = |value p - x| → value p ≠ value r → r.getLsbD 0 = false)

/-- The block is playable: whatever is asked next, the step answers a next state (rules R83, R262). -/
def CanStep (s : State) : Prop := ∃ t, step s = .next t

/-- `t` is reached from `s` by steps. -/
inductive Reaches (s : State) : State → Prop where
  | refl : Reaches s s
  | step {t v : State} : Reaches s t → step t = .next v → Reaches s v

/-- A safe run: every state reached can step and keeps the invariants. -/
def SafeFrom (s : State) : Prop := ∀ t, Reaches s t → CanStep t ∧ Inv t

end Sys2Proof.Machine
end

