-- ==== Sys2Proof/Certificates/Slice0/Obligations.lean ====
section
/-! DEFINITION. The statements for the provers, from the numbered rules of spec/. -/

open Sys2Proof Sys2Proof.Machine

/-! ### Command words -/

/-- Rules R92 and R94, with the byte order of R62: decoding a command's word, or its bytes with anything
behind them, gives the command back with every operand. -/
def Obligations.DecodeEncodeRoundTrip : Prop :=
  ∀ (i : Instr) (rest : List Byte), i.wf = true →
    decodeWord (encode i) = .ok i ∧ decodeBytes (encodeBytes i ++ rest) = .ok (i, rest)

/-- Rule R95, "every word is either one of the 14 commands or illegal": a word that decodes is the encoding
of what it decodes to, and that is well formed. -/
def Obligations.EncodeDecodeRoundTrip : Prop :=
  ∀ (w : Word) (i : Instr), decodeWord w = .ok i → i.wf = true ∧ encode i = w

/-- Rule R93: "a word `w` spells the row's command exactly when `w & mask = match` (and, for format U,
`unit != 3`)". -/
def Obligations.WordSpellsRowExactly : Prop :=
  ∀ (w : Word) (i : Instr),
    (∃ j, decodeWord w = .ok j ∧ j.mnemonic = i.mnemonic) ↔
      (w &&& i.tableMask = i.tableMatch ∧ (i.formatU = true → field w 17 16 ≠ 3))

/-- Words of rule R94 and of 95_test_vectors.md section 2.7, legal and illegal. -/
def Obligations.SampleWordsDecode : Prop :=
  decodeWord 0x00000000 = .ok .nop ∧ decodeWord 0x01000000 = .ok .start ∧
  decodeWord 0x10010000 = .ok (.oscUpdate .osc2) ∧ decodeWord 0x12020000 = .ok (.oscSetFreq .lfo) ∧
  decodeWord 0x20000000 = .ok .envUpdate ∧ decodeWord 0x31010000 = .ok (.setSyncEn true) ∧
  decodeWord 0x50457F00 = .ok (.keyPress 69 127) ∧ decodeWord 0x51460000 = .ok (.keyRelease 70) ∧
  decodeWord 0x10030000 = .error .reservedUnit ∧ decodeWord 0x14000000 = .error .reservedOpcode ∧
  decodeWord 0x50008000 = .error .mustBeZero ∧ decodeWord 0x00000001 = .error .mustBeZero

/-- Rules R39 and R230: writing to CMD a word that decodes runs exactly that command, on the state with the
event taken off the schedule and the write acknowledged. -/
def Obligations.StepRunsDecodedCommand : Prop :=
  ∀ (s : State) (w : Word) (i : Instr) (rest : List Event), decodeWord w = .ok i →
    step { s with inputs := .write .word 0x080 w :: rest } =
      exec i { s with inputs := rest, label := .written }

/-- Rule R96: an illegal word sets RESULT to 0x10, ORs it into ERR, and changes no other state. -/
def Obligations.IllegalWordReported : Prop :=
  ∀ (s : State) (w : Word) (e : DecodeError) (rest : List Event), decodeWord w = .error e →
    step { s with inputs := .write .word 0x080 w :: rest } =
      .next { s with result := 0x00000010, err := s.err ||| 0x00000010, inputs := rest, label := .written }

/-! ### The register space -/

/-- Rule R66: what a word read of each mapped offset returns, and that it changes no state. -/
def Obligations.RegisterReadsAnswer : Prop :=
  ∀ s : State,
    (∀ i : Fin 16, ReadAnswers s (4 * i) s.stg[i]) ∧ (∀ i : Fin 16, ReadAnswers s (0x040 + 4 * i) s.snap[i]) ∧
    ReadAnswers s 0x080 0 ∧ ReadAnswers s 0x084 (statusWord s) ∧ ReadAnswers s 0x088 s.result ∧
    ReadAnswers s 0x08C s.err ∧ ReadAnswers s 0x090 s.curOfs ∧ ReadAnswers s 0x094 s.trigOfs ∧
    ReadAnswers s 0x098 s.relOfs ∧ ReadAnswers s 0x09C (s.lastKey.setWidth 32) ∧
    ReadAnswers s 0x0A0 (BitVec.ofNat 32 s.oscSize.osc1) ∧ ReadAnswers s 0x0A4 (BitVec.ofNat 32 s.oscSize.osc2) ∧
    ReadAnswers s 0x0A8 (BitVec.ofNat 32 s.oscSize.lfo) ∧ ReadAnswers s 0x0AC (BitVec.ofNat 32 s.atkSize) ∧
    ReadAnswers s 0x0B0 (BitVec.ofNat 32 s.adSize) ∧ ReadAnswers s 0x0B4 (BitVec.ofNat 32 s.relSize) ∧
    ReadAnswers s 0x0B8 s.underruns ∧ ReadAnswers s 0x0BC (s.peekAddr.setWidth 32) ∧
    ReadAnswers s 0x0C0 (peekData s)

/-- Rule R67: what a word write to each mapped offset does; a write to CMD runs the command, or reports the
illegal word. -/
def Obligations.RegisterWritesLeave : Prop :=
  ∀ (s : State) (v : Word),
    (∀ i : Fin 16, WriteLeaves s (4 * i) v { s with stg := s.stg.set i v }) ∧
    (∀ i : Fin 16, WriteLeaves s (0x040 + 4 * i) v s) ∧
    WriteLeaves s 0x08C v { s with err := s.err &&& ~~~v } ∧
    WriteLeaves s 0x0BC v { s with peekAddr := (v &&& 0x0007FFFF).setWidth 19 } ∧
    (∀ off ∈ [0x084, 0x088, 0x090, 0x094, 0x098, 0x09C, 0x0A0, 0x0A4, 0x0A8, 0x0AC, 0x0B0, 0x0B4, 0x0B8, 0x0C0],
      WriteLeaves s off v s) ∧
    (∀ i rest, decodeWord v = .ok i →
      step { s with inputs := .write .word 0x080 v :: rest } =
        exec i { s with inputs := rest, label := .written }) ∧
    (∀ e, decodeWord v = .error e →
      WriteLeaves s 0x080 v { s with result := 0x00000010, err := s.err ||| 0x00000010 })

/-- Rules R64, R65 and R68: a byte or halfword access, an access that is not a multiple of 4, and an access
to 0x0C4 to 0xFFF change no state of SYNCORE; they are answered with a bus error, a read with the data
value 0. -/
def Obligations.BadAccessChangesNothing : Prop :=
  ∀ (s : State) (width : AccessWidth) (off : BitVec 12) (v : Word) (rest : List Event),
    (width ≠ .word ∨ off.toNat % 4 ≠ 0 ∨ 0x0C4 ≤ off.toNat) →
      step { s with inputs := .read width off :: rest } =
        .next { s with inputs := rest, label := .readError 0 } ∧
      step { s with inputs := .write width off v :: rest } =
        .next { s with inputs := rest, label := .writeError }

/-- Rule R36: STATUS is computed at each read, has no storage, and its bits are what the rule lists. -/
def Obligations.StatusBits : Prop :=
  statusWord State.reset = 0 ∧ ∀ s : State,
    ReadAnswers s 0x084 (statusWord s) ∧ (∀ v, WriteLeaves s 0x084 v s) ∧
    (statusWord s).getLsbD 0 = s.run ∧ (statusWord s).getLsbD 1 = (s.oscSize.osc1 != 0) ∧
    (statusWord s).getLsbD 2 = (s.oscSize.osc2 != 0) ∧ (statusWord s).getLsbD 3 = (s.oscSize.lfo != 0) ∧
    (statusWord s).getLsbD 4 = (s.adSize != 0) ∧ ∀ k, 5 ≤ k → (statusWord s).getLsbD k = false

/-- Rule R38: PEEKADDR keeps bits 18:0 of what is written, and PEEKDATA shows the entry `sel` and `idx`
name, 0 where they name none; neither read has a side effect and a write to PEEKDATA stores nothing. -/
def Obligations.PeekWindow : Prop :=
  State.reset.peekAddr = 0 ∧ ∀ (s : State) (v : Word),
    let t := { s with peekAddr := v.setWidth 19 }
    let idx := v.toNat % 2 ^ 16
    let sel := v.toNat / 2 ^ 16 % 8
    WriteLeaves s 0x0BC v t ∧ ReadAnswers t 0x0BC (v &&& 0x0007FFFF) ∧ WriteLeaves s 0x0C0 v s ∧
    ReadAnswers t 0x0C0
      (if sel = 0 ∧ idx < 4410 then s.mem.read (.osc .osc1) idx
      else if sel = 1 ∧ idx < 4410 then s.mem.read (.osc .osc2) idx
      else if sel = 2 ∧ idx < 4410 then s.mem.read (.osc .lfo) idx
      else if sel = 3 ∧ idx < 4410 then s.mem.read .ad idx
      else if sel = 4 ∧ idx < 4410 then s.mem.read .rel idx
      else 0)

/-! ### Reset, idling, and that nothing stops the block -/

/-- Rule R45: the values after reset. Every buffer entry is unspecified (rule R31); that it reads as a free
value of the model, which nothing constrains, is log entry 1. -/
def Obligations.ResetValues : Prop :=
  let s := State.reset
  (∀ i : Fin 16, s.stg[i] = 0) ∧ (∀ i : Fin 16, s.snap[i] = 0) ∧
  (∀ u, s.act.osc.get u = { amplitude := 0, frequency := 0, waveform := .sine }) ∧
  s.act.env = { attack := 0, decay := 0, release := 0, sustain := 0, amplitude := 0 } ∧
  s.act.synth = { lfoEnabled := false, osc2SyncEnabled := false, noiseAmplitude := 0 } ∧
  (∀ u, s.oscSize.get u = 0) ∧ s.atkSize = 0 ∧ s.adSize = 0 ∧ s.relSize = 0 ∧
  (∀ b k, s.mem.read b k = Config.freeEntry s.mem.epoch b k) ∧
  s.trigOfs = 0xFFFFFFFF ∧ s.relOfs = 0xFFFFFFFF ∧ s.curOfs = 0 ∧ s.lastKey = 0xFF ∧ s.run = false ∧
  s.result = 0 ∧ s.err = 0 ∧ s.underruns = 0 ∧ s.peekAddr = 0

/-- Rule R290: the reset event puts every piece of state at its value of rule R45 and leaves the buffers'
contents unspecified anew. The free values are those of the next `epoch`, which is the model's own (log
entry 1). -/
def Obligations.ResetEventRestoresReset : Prop :=
  ∀ (s : State) (rest : List Event),
    step { s with inputs := .reset :: rest } =
      .next { State.reset with
        mem := { State.reset.mem with epoch := s.mem.epoch + 1 }
        inputs := rest
        label := .resetDone }

/-- Rules R83 and R262: no state is stuck, and no error stops the block. -/
def Obligations.EveryStepAnswersNext : Prop := ∀ s : State, ∃ t, step s = .next t

/-! ### Housekeeping and the synth record -/

/-- Rules R221 and R222: NOP clears RESULT and nothing else; START sets `run` as well. -/
def Obligations.NopAndStart : Prop :=
  decodeWord 0x00000000 = .ok .nop ∧ decodeWord 0x01000000 = .ok .start ∧ ∀ s : State,
    exec .nop s = .next { s with result := 0 } ∧ exec .start s = .next { s with run := true, result := 0 }

/-- Rules R223, R224 and R225: each writes its field of the synth record, RESULT, and nothing else; the noise
amplitude has no effect on any output. -/
def Obligations.SynthCommandsWriteTheirField : Prop :=
  decodeWord 0x30000000 = .ok (.setLfoEn false) ∧ decodeWord 0x30010000 = .ok (.setLfoEn true) ∧
  decodeWord 0x31010000 = .ok (.setSyncEn true) ∧ decodeWord 0x32000000 = .ok .setNoise ∧
  ∀ (flag : Bool) (s : State),
    exec (.setLfoEn flag) s =
      .next { s with
        act := { s.act with synth := { s.act.synth with lfoEnabled := flag } }
        result := 0 } ∧
    exec (.setSyncEn flag) s =
      .next { s with
        act := { s.act with synth := { s.act.synth with osc2SyncEnabled := flag } }
        result := 0 } ∧
    exec .setNoise s =
      .next { s with
        act := { s.act with synth := { s.act.synth with noiseAmplitude := s.stg[15] } }
        result := 0 } ∧
    (∀ t, exec .setNoise s = .next t → periodOut t = periodOut s)

/-- Rule R227 with the image of rule R27: SNAPSHOT copies the image of ACT into SNAP and changes nothing else but RESULT. -/
def Obligations.SnapshotCopiesImage : Prop :=
  decodeWord 0x41000000 = .ok .snapshot ∧ ∀ s : State,
    let a := s.act
    exec .snapshot s =
      .next { s with
        snap :=
          #v[a.osc.osc1.amplitude, a.osc.osc1.frequency, waveToWord a.osc.osc1.waveform,
            a.osc.osc2.amplitude, a.osc.osc2.frequency, waveToWord a.osc.osc2.waveform,
            a.osc.lfo.amplitude, a.osc.lfo.frequency, waveToWord a.osc.lfo.waveform,
            a.env.attack, a.env.decay, a.env.release, a.env.sustain, a.env.amplitude,
            BitVec.ofNat 32 ((if a.synth.osc2SyncEnabled then 2 else 0) + (if a.synth.lfoEnabled then 1 else 0)),
            a.synth.noiseAmplitude]
        result := 0 }

/-! ### The oscillators -/

/-- Rules R136, R137 and R138: the three waveforms, entry by entry. -/
def Obligations.GenerateFollowsFormulas : Prop :=
  ∀ (w : Wave) (A : F32) (N : Nat),
    (generate w A N).length = N ∧
    ∀ k < N, (generate w A N)[k]? = some
      (match w with
      | .sine => fmul A (sinTurn k N)
      | .sawtooth => fmul (fmul A kSaw) (fdiv (u2f k) (u2f N))
      | .square => if 2 * k < N then fmul A kSq else fneg (fmul A kSq))

/-- Rule R152: `OscUpdate(u, new)`. A reject changes nothing; success stores the record, regenerates the
entries below the new size and touches nothing else. -/
def Obligations.OscUpdateProcedure : Prop :=
  ∀ (u : OscUnit) (new : OscRequest) (s : State),
    let p := fmul new.freq (u2f (Config.DS u))
    let N := f2nRound (fdiv (effRate u) new.freq)
    (3 ≤ new.waveWord.toNat → oscUpdate u new s = ([.illegal], s)) ∧
    (new.waveWord.toNat < 3 → ¬(fle fMin p = true ∧ fle p fMax = true) →
      oscUpdate u new s = ([.freq], s)) ∧
    (∀ w, new.waveWord = waveToWord w → fle fMin p = true → fle p fMax = true →
      if N < 2 ∨ Config.OSC_BUF_CAP < N then oscUpdate u new s = ([.freq, .cap], s)
      else ∃ t, oscUpdate u new s = ([], t) ∧
        t.act.osc.get u = { amplitude := new.amp, frequency := new.freq, waveform := w } ∧
        t.oscSize.get u = N ∧
        (∀ k < N, t.mem.read (.osc u) k = generateEntry w new.amp N k) ∧
        (∀ k, N ≤ k → t.mem.read (.osc u) k = s.mem.read (.osc u) k) ∧
        (∀ v, v ≠ u → SameOsc v t s) ∧ SameEnv t s ∧ t.act.synth = s.act.synth ∧ SameRest t s ∧
        t.result = s.result ∧ t.err = s.err)

/-- Rules R155 to R158 with the frame of rule R230: which record each oscillator command hands to
`OscUpdate`, and what it leaves in RESULT and ERR. -/
def Obligations.OscCommandsReport : Prop :=
  ∀ (u : OscUnit) (s : State),
    let stg := fun i => s.stg.toList.getD (3 * u.index + i) 0
    let act := s.act.osc.get u
    let ends := fun (new : OscRequest) =>
      let c := (oscUpdate u new s).1
      let t := (oscUpdate u new s).2
      let r := codesWord c ||| (if c = [] then 0 else 0x100#32 <<< u.index)
      Host.Outcome.next (φ := Fault) (ρ := Refusal) { t with result := r, err := t.err ||| r }
    exec (.oscUpdate u) s = ends { amp := stg 0, freq := stg 1, waveWord := stg 2 } ∧
    exec (.oscSetAmp u) s =
      ends { amp := stg 0, freq := act.frequency, waveWord := waveToWord act.waveform } ∧
    exec (.oscSetFreq u) s =
      ends { amp := act.amplitude, freq := stg 1, waveWord := waveToWord act.waveform } ∧
    exec (.oscSetWave u) s =
      ends { amp := act.amplitude, freq := act.frequency, waveWord := stg 2 }

/-- Rules R155 to R158: where an oscillator command succeeds, RESULT is 0 and the unit holds the new record
and its whole period. OSC_UPDATE and OSC_SET_FREQ need an accepted staged frequency, OSC_UPDATE and
OSC_SET_WAVE a legal staged waveform; on a configured unit OSC_SET_AMP cannot be rejected and OSC_SET_WAVE
needs no more; on an unconfigured unit OSC_SET_AMP is rejected with E_FREQ. The premise where a unit's
record matters is the invariant, with its inference that an unconfigured unit holds its reset record (log
entry 8). -/
def Obligations.OscCommandsSucceed : Prop :=
  ∀ (u : OscUnit) (s : State),
    let stg := fun i => s.stg.toList.getD (3 * u.index + i) 0
    let act := s.act.osc.get u
    let succeeds := fun (i : Instr) (p : OscParams) =>
      ∃ t, exec i s = .next t ∧ t.result = 0 ∧ t.err = s.err ∧ t.act.osc.get u = p ∧
        t.oscSize.get u = oscPeriod u p.frequency ∧
        ∀ k < oscPeriod u p.frequency,
          t.mem.read (.osc u) k = generateEntry p.waveform p.amplitude (oscPeriod u p.frequency) k
    (∀ w, stg 2 = waveToWord w → oscFreqOk u (stg 1) = true →
      succeeds (.oscUpdate u) { amplitude := stg 0, frequency := stg 1, waveform := w }) ∧
    (oscFreqOk u (stg 1) = true → succeeds (.oscSetFreq u) { act with frequency := stg 1 }) ∧
    (Inv s → s.oscSize.get u ≠ 0 → succeeds (.oscSetAmp u) { act with amplitude := stg 0 }) ∧
    (Inv s → s.oscSize.get u = 0 →
      exec (.oscSetAmp u) s =
        .next { s with result := 0x001 ||| rejUnit u, err := s.err ||| (0x001 ||| rejUnit u) }) ∧
    (∀ w, Inv s → s.oscSize.get u ≠ 0 → stg 2 = waveToWord w →
      succeeds (.oscSetWave u) { act with waveform := w })

/-- Rules R160 and R161: the accepted frequency patterns, on OSC1 and OSC2 from 10.0 to 22050.0 and on the
LFO from `f32(0.1)` to 220.5, and the sizes at the four ends; with the decided parameters step 4 of rule
R152 never rejects. -/
def Obligations.AcceptedFrequencyRanges : Prop :=
  oscPeriod .osc1 0x41200000 = 4410 ∧ oscPeriod .osc1 0x46AC4400 = 2 ∧
  oscPeriod .lfo 0x3DCCCCCD = 4410 ∧ oscPeriod .lfo 0x435C8000 = 2 ∧
  ∀ f : F32,
    (∀ u, oscFreqOk u f = true → 2 ≤ oscPeriod u f ∧ oscPeriod u f ≤ Config.OSC_BUF_CAP) ∧
    (oscFreqOk .osc1 f = true ↔ 0x41200000 ≤ f.toNat ∧ f.toNat ≤ 0x46AC4400) ∧
    (oscFreqOk .osc2 f = true ↔ 0x41200000 ≤ f.toNat ∧ f.toNat ≤ 0x46AC4400) ∧
    (oscFreqOk .lfo f = true ↔ 0x3DCCCCCD ≤ f.toNat ∧ f.toNat ≤ 0x435C8000)

/-- Rules R153 and R154: the two lookups. -/
def Obligations.OscLookups : Prop :=
  ∀ (s : State) (u : OscUnit) (g : Word),
    oscSampleAt u s g =
      (if s.oscSize.get u = 0 then 0
        else s.mem.read (.osc u) (g.toNat / Config.DS u % s.oscSize.get u)) ∧
    osc2SyncAt s g =
      (if s.oscSize.osc1 = 0 ∨ s.oscSize.osc2 = 0 then 0
        else s.mem.read (.osc .osc2) (g.toNat % s.oscSize.osc1 % s.oscSize.osc2))

/-- Rule R159 (d): a configured unit is periodic as long as the offset does not wrap. -/
def Obligations.OscPeriodicBelowWrap : Prop :=
  ∀ (s : State) (u : OscUnit) (g : Word), s.oscSize.get u ≠ 0 →
    g.toNat + s.oscSize.get u * Config.DS u < 2 ^ 32 →
      oscSampleAt u s (g + BitVec.ofNat 32 (s.oscSize.get u * Config.DS u)) = oscSampleAt u s g

/-- Rules R154 and R212 (d): in hard sync OSC2 restarts whenever OSC1's phase returns to 0, and agrees with
free running when its size divides OSC1's. -/
def Obligations.HardSyncRestartsOsc2 : Prop :=
  ∀ (s : State) (g : Word), s.oscSize.osc1 ≠ 0 → s.oscSize.osc2 ≠ 0 →
    (g.toNat % s.oscSize.osc1 = 0 → osc2SyncAt s g = s.mem.read (.osc .osc2) 0) ∧
    (s.oscSize.osc2 ∣ s.oscSize.osc1 → osc2SyncAt s g = oscSampleAt .osc2 s g)

/-! ### The envelope -/

/-- Rules R173 and R174: the three curve segments, entry by entry. -/
def Obligations.EnvCurvesFollowFormulas : Prop :=
  ∀ (p : EnvParams) (aS k : Nat) (last : F32),
    let decayed := fun (D : F32) =>
      fexp (fneg (fdiv (fmul c3 (fdiv (u2f (k * Config.DS_ENV)) (u2f Config.FS))) D))
    (k < aS → adEntry p aS k = fmul p.amplitude (fsub c1 (decayed p.attack))) ∧
    adEntry p aS (aS + k) =
      fmul (fmul c095 p.amplitude) (fsub c1 (fmul (fsub c1 p.sustain) (fsub c1 (decayed p.decay)))) ∧
    releaseEntry p last k = fmul last (decayed p.release)

/-- Rule R172 with the lengths of rule R171: `EnvUpdate(new)`. A reject changes nothing; success stores the
record, the sizes and the curves, and touches nothing else. -/
def Obligations.EnvUpdateProcedure : Prop :=
  ∀ (p : EnvParams) (s : State),
    let samples := fun (d : F32) => f2nTrunc (fdiv (fmul d (u2f Config.FS)) (u2f Config.DS_ENV))
    let aS := samples p.attack
    let dS := samples p.decay
    let rS := samples p.release
    let inRange := flt 0 p.attack = true ∧ flt 0 p.decay = true ∧ flt 0 p.release = true ∧
      fle 0 p.sustain = true ∧ fle p.sustain c1 = true
    let tooLong := Config.ENV_AD_CAP < aS + dS ∨ Config.ENV_REL_CAP < rS
    (¬inRange → envUpdate p s = ([.env], s)) ∧
    (inRange → tooLong → envUpdate p s = ([.env, .cap], s)) ∧
    (inRange → ¬tooLong → aS + dS = 0 → envUpdate p s = ([.env], s)) ∧
    (inRange → ¬tooLong → aS + dS ≠ 0 → ∃ t, envUpdate p s = ([], t) ∧
      t.act.env = p ∧ t.atkSize = aS ∧ t.adSize = aS + dS ∧ t.relSize = rS ∧
      (∀ k < aS + dS, t.mem.read .ad k = adEntry p aS k) ∧
      (∀ k < rS, t.mem.read .rel k = releaseEntry p (adEntry p aS (aS + dS - 1)) k) ∧
      (∀ k, aS + dS ≤ k → t.mem.read .ad k = s.mem.read .ad k) ∧
      (∀ k, rS ≤ k → t.mem.read .rel k = s.mem.read .rel k) ∧
      (∀ u, SameOsc u t s) ∧ t.act.synth = s.act.synth ∧ SameRest t s ∧
      t.result = s.result ∧ t.err = s.err)

/-- Rule R180: ENV_UPDATE hands words 9 to 13 of STG to `EnvUpdate` and reports; where the record is accepted,
RESULT is 0 and the record and its sizes are stored. -/
def Obligations.EnvUpdateCommandReports : Prop :=
  ∀ s : State,
    let new : EnvParams :=
      { attack := s.stg[9], decay := s.stg[10], release := s.stg[11], sustain := s.stg[12],
        amplitude := s.stg[13] }
    let c := (envUpdate new s).1
    let t := (envUpdate new s).2
    let r := codesWord c ||| (if c = [] then 0 else 0x800)
    exec .envUpdate s = .next { t with result := r, err := t.err ||| r } ∧
    ∀ z, envCheck new = .ok z →
      ∃ v, exec .envUpdate s = .next v ∧ v.result = 0 ∧ v.err = s.err ∧ v.act.env = new ∧
        v.atkSize = z.attack ∧ v.adSize = z.attack + z.decay ∧ v.relSize = z.release

/-- Rule R178: `EnvValueAt(g)`. -/
def Obligations.EnvValueAtProcedure : Prop :=
  ∀ (s : State) (g : Word),
    let r := (g.toNat - s.relOfs.toNat) / Config.DS_ENV
    let a := (g.toNat - s.trigOfs.toNat) / Config.DS_ENV
    envValueAt s g =
      if s.adSize = 0 then 0
      else if s.relOfs.toNat < g.toNat then (if r < s.relSize then s.mem.read .rel r else 0)
      else if s.trigOfs.toNat < g.toNat then
        (if a < s.adSize then s.mem.read .ad a else s.mem.read .ad (s.adSize - 1))
      else 0

/-- Rule R179 (a), (b), (c), (d), (e): silence at the trigger mark itself, the attack-decay curve at the
release mark itself, no release at any offset while the note is held, silence when never triggered, and the
release branch first when both marks are passed. -/
def Obligations.EnvMarksConsequences : Prop :=
  ∀ (s : State) (g : Word), s.adSize ≠ 0 →
    (s.trigOfs.toNat ≤ s.relOfs.toNat → envValueAt s s.trigOfs = 0) ∧
    (s.trigOfs.toNat < s.relOfs.toNat → (s.relOfs.toNat - s.trigOfs.toNat) / 100 < s.adSize →
      envValueAt s s.relOfs = s.mem.read .ad ((s.relOfs.toNat - s.trigOfs.toNat) / 100)) ∧
    (s.relOfs = 0xFFFFFFFF →
      envValueAt s g =
        if s.trigOfs.toNat < g.toNat then
          s.mem.read .ad (min ((g.toNat - s.trigOfs.toNat) / 100) (s.adSize - 1))
        else 0) ∧
    (s.relOfs = 0xFFFFFFFF → s.trigOfs.toNat + 100 * s.adSize ≤ g.toNat →
      envValueAt s g = s.mem.read .ad (s.adSize - 1)) ∧
    (s.relOfs = 0xFFFFFFFF → s.trigOfs = 0xFFFFFFFF → envValueAt s g = 0) ∧
    (s.relOfs.toNat < g.toNat → g.toNat < s.relOfs.toNat + 100 → 0 < s.relSize →
      envValueAt s g = s.mem.read .rel 0) ∧
    (s.relOfs.toNat + 100 * s.relSize ≤ g.toNat → s.relOfs.toNat < g.toNat → envValueAt s g = 0)

/-- Rule R175 (f): the attack entries of an accepted envelope do not fall and its release entries do not
rise, for a finite amplitude that is not negative. -/
def Obligations.EnvelopeCurvesMonotone : Prop :=
  ∀ (p : EnvParams) (z : EnvLengths), envCheck p = .ok z → isFinite p.amplitude →
    fle 0 p.amplitude = true →
      (∀ k, k + 1 < z.attack → fle (adEntry p z.attack k) (adEntry p z.attack (k + 1)) = true) ∧
      ∀ k, k + 1 < z.release →
        fle (releaseEntry p (lastEntry p z) (k + 1)) (releaseEntry p (lastEntry p z) k) = true

/-! ### The full update and the key events -/

/-- Rule R226: APPLY_FULL applies the synth record and runs the four update paths, each on its own: every
part is left as its own update leaves it, and RESULT is the OR. -/
def Obligations.ApplyFullPartsIndependent : Prop :=
  ∀ s : State,
    let c := fun u => (oscUpdate u (s.stgOsc u) s).1
    let e := (envUpdate s.stgEnv s).1
    ∃ t, exec .applyFull s = .next t ∧
      t.act.synth = { lfoEnabled := s.stg[14].getLsbD 0, osc2SyncEnabled := s.stg[14].getLsbD 1,
                      noiseAmplitude := s.stg[15] } ∧
      (∀ u, SameOsc u t (oscUpdate u (s.stgOsc u) s).2) ∧ SameEnv t (envUpdate s.stgEnv s).2 ∧
      t.result =
        codesWord (c .osc1) ||| (if c .osc1 = [] then 0 else 0x100) |||
        (codesWord (c .osc2) ||| (if c .osc2 = [] then 0 else 0x200)) |||
        (codesWord (c .lfo) ||| (if c .lfo = [] then 0 else 0x400)) |||
        (codesWord e ||| (if e = [] then 0 else 0x800)) ∧
      t.err = s.err ||| t.result ∧ SameRest t s

/-- Rule R231: APPLY_FULL then SNAPSHOT returns what was supplied in every part that was accepted, bit for
bit (the flags word without its reserved bits), and the prior accepted values in every part whose REJ bit
is set. -/
def Obligations.ApplyThenSnapshotRoundTrip : Prop :=
  ∀ s : State, ∃ t v, exec .applyFull s = .next t ∧ exec .snapshot t = .next v ∧
    v.snap[14] = s.stg[14] &&& 0x00000003 ∧ v.snap[15] = s.stg[15] ∧
    (t.result = 0 → ∀ i : Fin 16, i ≠ 14 → v.snap[i] = s.stg[i]) ∧
    (∀ i : Fin 3, v.snap[i.val] = if t.result.getLsbD 8 then s.act.image[i.val] else s.stg[i.val]) ∧
    (∀ i : Fin 3, v.snap[3 + i.val] = if t.result.getLsbD 9 then s.act.image[3 + i.val] else s.stg[3 + i.val]) ∧
    (∀ i : Fin 3, v.snap[6 + i.val] = if t.result.getLsbD 10 then s.act.image[6 + i.val] else s.stg[6 + i.val]) ∧
    (∀ i : Fin 5, v.snap[9 + i.val] = if t.result.getLsbD 11 then s.act.image[9 + i.val] else s.stg[9 + i.val])

/-- Rule R228: KEY_PRESS sets `lastKey`, retunes OSC1 from the note table, rescales the envelope to
`vel / 127`, and triggers at the current offset, each whatever the others' success; nothing else
changes. -/
def Obligations.KeyPressEffects : Prop :=
  ∀ (key vel : Nat) (s : State), key < 128 → vel < 128 →
    let o := oscUpdate .osc1
      { amp := s.act.osc.osc1.amplitude, freq := noteFreq key, waveWord := waveToWord s.act.osc.osc1.waveform } s
    let e := envUpdate { s.act.env with amplitude := fdiv (u2f vel) c127 } s
    ∃ t, exec (.keyPress key vel) s = .next t ∧ t.lastKey.toNat = key ∧ t.trigOfs = s.curOfs ∧
      t.relOfs = 0xFFFFFFFF ∧ SameOsc .osc1 t o.2 ∧ SameEnv t e.2 ∧ SameOsc .osc2 t s ∧ SameOsc .lfo t s ∧
      t.act.synth = s.act.synth ∧
      t.result = codesWord o.1 ||| (if o.1 = [] then 0 else 0x100) |||
        (codesWord e.1 ||| (if e.1 = [] then 0 else 0x800)) ∧
      t.err = s.err ||| t.result ∧ t.stg = s.stg ∧ t.snap = s.snap ∧ t.curOfs = s.curOfs ∧ t.run = s.run ∧
      t.underruns = s.underruns ∧ t.peekAddr = s.peekAddr ∧ t.inputs = s.inputs ∧ t.label = s.label

/-- Rules R130 and R228: with the decided parameters the frequency of a key is rejected for exactly the keys
0 to 3. -/
def Obligations.KeysBelowFourRejected : Prop :=
  ∀ key < 128, (oscFreqOk .osc1 (noteFreq key) = true ↔ 4 ≤ key)

/-- Rule R228: on a configured envelope a press of a key from 4 up reports success and configures OSC1 at the
note's frequency. The premise is the invariant of rule R44 (with log entry 8). -/
def Obligations.KeyPressOnConfiguredSucceeds : Prop :=
  ∀ (key vel : Nat) (s : State), Inv s → s.adSize ≠ 0 → 4 ≤ key → key < 128 → vel < 128 →
    ∃ t, exec (.keyPress key vel) s = .next t ∧ t.result = 0 ∧ t.err = s.err ∧
      t.act.osc.osc1.frequency = noteFreq key ∧ t.oscSize.osc1 = oscPeriod .osc1 (noteFreq key) ∧
      t.act.env.amplitude = fdiv (u2f vel) c127 ∧ t.adSize = s.adSize ∧ t.atkSize = s.atkSize ∧
      t.relSize = s.relSize

/-- Rule R229: KEY_RELEASE moves `relOfs` to the current offset exactly when the key is the last one
pressed, and changes nothing else but RESULT. -/
def Obligations.KeyReleaseGated : Prop :=
  decodeWord 0x51460000 = .ok (.keyRelease 70) ∧ ∀ (key : Nat) (s : State), key < 128 →
    exec (.keyRelease key) s =
      .next (if key = s.lastKey.toNat then { s with relOfs := s.curOfs, result := 0 }
        else { s with result := 0 }) ∧
    (s.lastKey = 0xFF → exec (.keyRelease key) s = .next { s with result := 0 })

/-- Rule R130: every entry of NOTE_FREQ is the binary32 value nearest `440 * 2^((key - 69) / 12)` (twelfth
powers of the midpoints to its neighbours bound the twelfth power of that number), and twelve keys up
doubles it. -/
def Obligations.NoteFreqEqualTempered : Prop :=
  (∀ key < 128,
    let m := fmag (noteFreq key)
    (magUnits (m - 1) + magUnits m) ^ 12 * 2 ^ 69 < (440 * 2 ^ 150) ^ 12 * 2 ^ key ∧
    (440 * 2 ^ 150) ^ 12 * 2 ^ key < (magUnits m + magUnits (m + 1)) ^ 12 * 2 ^ 69) ∧
  noteFreq 69 = 0x43DC0000 ∧
  ∀ key < 116, noteFreq (key + 12) = fmul (u2f 2) (noteFreq key)

/-! ### The mixing engine -/

/-- Rules R200, R208 and R209: a tick while `run = 1` produces one period, advances the counter and reports a
shortfall; nothing else changes. -/
def Obligations.ProduceStepEffects : Prop :=
  ∀ (s : State) (accepted : Fin (Config.PERIOD_BYTES + 1)) (rest : List Event), s.run = true →
    ∃ t out, step { s with inputs := .tick accepted :: rest } = .next t ∧
      t.label = .period out accepted.val ∧ out.length = 882 ∧
      (∀ i < 441, ∀ c < 2,
        let g := BitVec.ofNat 32 (s.curOfs.toNat + i)
        let lfo := if s.act.synth.lfoEnabled then oscSampleAt .lfo s g else c1
        let o2 := if s.act.synth.osc2SyncEnabled then osc2SyncAt s g else oscSampleAt .osc2 s g
        out[i * 2 + c]? =
          some (f2i16 (fmul (fmul (envValueAt s g) lfo) (fadd (oscSampleAt .osc1 s g) o2)))) ∧
      t.curOfs.toNat = (s.curOfs.toNat + 441) % 2 ^ 32 ∧
      (accepted.val < 1764 →
        t.err = s.err ||| 0x008 ∧ t.underruns.toNat = min (s.underruns.toNat + 1) 0xFFFFFFFF) ∧
      (accepted.val = 1764 → t.err = s.err ∧ t.underruns = s.underruns) ∧
      t.act = s.act ∧ t.stg = s.stg ∧ t.snap = s.snap ∧ t.oscSize = s.oscSize ∧ t.mem = s.mem ∧
      t.atkSize = s.atkSize ∧ t.adSize = s.adSize ∧ t.relSize = s.relSize ∧ t.trigOfs = s.trigOfs ∧
      t.relOfs = s.relOfs ∧ t.lastKey = s.lastKey ∧ t.run = s.run ∧ t.result = s.result ∧
      t.peekAddr = s.peekAddr ∧ t.inputs = rest

/-- Rule R201: "while `run = 0`, no PRODUCE step is enabled and a tick has no effect at all". -/
def Obligations.TickWhileStoppedDiscarded : Prop :=
  ∀ (s : State) (accepted : Fin (Config.PERIOD_BYTES + 1)) (rest : List Event), s.run = false →
    step { s with inputs := .tick accepted :: rest } =
      .next { s with inputs := rest, label := .tickDiscarded }

/-- Rules R204 and R44 (e): the period is a function of the counter, the two enable flags, the marks, the
sizes, and the buffer entries below the sizes; states that agree on these produce the same period. -/
def Obligations.PeriodDependsOnAudibleStateOnly : Prop :=
  ∀ s t : State, SameAudible s t → periodOut s = periodOut t

/-- Rule R206: with nothing configured every sample is 0, whatever the flags, marks and counter. -/
def Obligations.UnconfiguredCoreIsSilent : Prop :=
  ∀ s : State, (∀ u, s.oscSize.get u = 0) → s.adSize = 0 → periodOut s = List.replicate 882 0

/-- Rule R63: the byte layout of a period, low byte first. -/
def Obligations.PeriodByteLayout : Prop :=
  ∀ (out : List I16) (n : Nat) (q : I16), out[n]? = some q →
    (periodBytes out)[2 * n]? = some (BitVec.ofNat 8 (q.toNat % 256)) ∧
    (periodBytes out)[2 * n + 1]? = some (BitVec.ofNat 8 (q.toNat / 256))

/-! ### Arithmetic -/

/-- Rule R121: `fadd`, `fsub`, `fmul` and `fdiv` on finite operands are the exact results rounded once, to
nearest with ties to even; rule R123: `u2f` is rounded so, and exact below `2^24`. The bound from which an
infinity results is that of IEEE 754 (log entry 12). -/
def Obligations.ArithmeticRoundsOnce : Prop :=
  (∀ a b : F32, isFinite a → isFinite b →
    RoundsTo (fadd a b) (value a + value b) ∧ RoundsTo (fsub a b) (value a - value b) ∧
    RoundsTo (fmul a b) (value a * value b) ∧
    (isZero b = false → RoundsTo (fdiv a b) (value a / value b))) ∧
  ∀ n < 2 ^ 32, RoundsTo (u2f n) n ∧ fsign (u2f n) = false ∧ (n < 2 ^ 24 → value (u2f n) = n)

/-- Rule R121: the operations on NaNs, infinities and zeros, and `fneg`. Infinities with finite operands,
`inf/inf` and the signs of zero and infinite results, which the rule does not spell out, are those of the
IEEE 754 operations it names (log entry 12). -/
def Obligations.ArithmeticSpecialCases : Prop :=
  ∀ a b : F32,
    ((isNaN a = true ∨ isNaN b = true) →
      isNaN (fadd a b) = true ∧ isNaN (fsub a b) = true ∧ isNaN (fmul a b) = true ∧ isNaN (fdiv a b) = true) ∧
    (isInf a = true → isInf b = true →
      (fsign a ≠ fsign b → isNaN (fadd a b) = true ∧ fsub a b = a) ∧
      (fsign a = fsign b → fadd a b = a ∧ isNaN (fsub a b) = true) ∧
      isInf (fmul a b) = true ∧ isNaN (fdiv a b) = true) ∧
    (isInf a = true → isFinite b →
      fadd a b = a ∧ fsub a b = a ∧ isInf (fdiv a b) = true ∧
      (isZero b = true → isNaN (fmul a b) = true) ∧ (isZero b = false → isInf (fmul a b) = true)) ∧
    (isFinite a → isInf b = true →
      fadd a b = b ∧ fsub a b = fneg b ∧ isZero (fdiv a b) = true ∧
      (isZero a = true → isNaN (fmul a b) = true) ∧ (isZero a = false → isInf (fmul a b) = true)) ∧
    (isZero a = true → isZero b = true → isNaN (fdiv a b) = true) ∧
    (isNaN a = false → isZero a = false → isZero b = true → isInf (fdiv a b) = true) ∧
    (isNaN (fmul a b) = false → fsign (fmul a b) = (fsign a != fsign b)) ∧
    (isNaN (fdiv a b) = false → fsign (fdiv a b) = (fsign a != fsign b)) ∧
    (isFinite a → isFinite b →
      (value a + value b = 0 → fadd a b = if fsign a && fsign b then 0x80000000 else 0) ∧
      (value a - value b = 0 → fsub a b = if fsign a && !fsign b then 0x80000000 else 0)) ∧
    fneg (fneg a) = a ∧ fmag (fneg a) = fmag a ∧ fsign (fneg a) = !fsign a

/-- Rule R122: comparisons of finite values are comparisons of their values; every other value lies between
the two infinities; a NaN compares false. -/
def Obligations.ComparisonsFollowValues : Prop :=
  ∀ a b : F32,
    (isFinite a → isFinite b →
      (flt a b = true ↔ value a < value b) ∧ (fle a b = true ↔ value a ≤ value b)) ∧
    (isNaN a = false →
      fle a 0x7F800000 = true ∧ fle 0xFF800000 a = true ∧ flt 0x7F800000 a = false ∧ flt a 0xFF800000 = false) ∧
    (isFinite a →
      flt a 0x7F800000 = true ∧ flt 0xFF800000 a = true ∧ fle 0x7F800000 a = false ∧ fle a 0xFF800000 = false) ∧
    flt 0xFF800000 0x7F800000 = true ∧ fle 0x7F800000 0xFF800000 = false ∧
    ((isNaN a = true ∨ isNaN b = true) → flt a b = false ∧ fle a b = false)

/-- Rules R124 and R125: conversion to a natural by truncation and by rounding half away from zero, both
saturating. -/
def Obligations.FloatToNatural : Prop :=
  ∀ v : F32,
    (isNaN v = true → f2nTrunc v = 0 ∧ f2nRound v = 0) ∧
    (isFinite v → value v ≤ 0 → f2nTrunc v = 0 ∧ f2nRound v = 0) ∧
    (isFinite v → 0 ≤ value v → value v < 2 ^ 32 → f2nTrunc v = ⌊value v⌋₊) ∧
    (isFinite v → 2 ^ 32 ≤ value v → f2nTrunc v = 2 ^ 32 - 1) ∧
    (isFinite v → 0 < value v → value v < 2 ^ 32 - 1 → f2nRound v = ⌊value v + 1 / 2⌋₊) ∧
    (isFinite v → 2 ^ 32 - 1 ≤ value v → f2nRound v = 2 ^ 32 - 1) ∧
    (v = 0x7F800000 → f2nTrunc v = 2 ^ 32 - 1 ∧ f2nRound v = 2 ^ 32 - 1) ∧
    (v = 0xFF800000 → f2nTrunc v = 0 ∧ f2nRound v = 0)

/-- Rule R126: the output cast truncates toward zero and clamps; a NaN gives 0. -/
def Obligations.OutputCastTruncatesAndClamps : Prop :=
  ∀ v : F32,
    (isNaN v = true → f2i16 v = 0) ∧
    (isInf v = true → (f2i16 v).toInt = if fsign v then -32768 else 32767) ∧
    (isFinite v → 0 ≤ value v → (f2i16 v).toInt = min ⌊value v⌋ 32767) ∧
    (isFinite v → value v ≤ 0 → (f2i16 v).toInt = max (-⌊-value v⌋) (-32768))

/-- Rule R128, properties X1, X2, X3 and X5 of FEXP. -/
def Obligations.ExponentialProperties : Prop :=
  fexp 0x00000000 = 0x3F800000 ∧ fexp 0x80000000 = 0x3F800000 ∧
  (∀ x : F32, fle x 0 = true → fle 0 (fexp x) = true ∧ fle (fexp x) c1 = true) ∧
  (∀ x y : F32, fle x y = true → fle (fexp x) (fexp y) = true) ∧
  ∀ x : F32, isNaN (fexp x) = isNaN x

/-- Rule R127, properties S1 to S4 of SINTURN. -/
def Obligations.SineProperties : Prop :=
  ∀ N : Nat, 2 ≤ N → N ≤ Config.OSC_BUF_CAP →
    sinTurn 0 N = 0 ∧
    (∀ k < N, fle 0xBF800000 (sinTurn k N) = true ∧ fle (sinTurn k N) c1 = true) ∧
    (∀ k < N, 0 < k → fle (sinTurn (N - k) N) (fneg (sinTurn k N)) = true ∧
      fle (fneg (sinTurn k N)) (sinTurn (N - k) N) = true) ∧
    (2 ∣ N → isZero (sinTurn (N / 2) N) = true) ∧
    (4 ∣ N → sinTurn (N / 4) N = c1 ∧ sinTurn (3 * N / 4) N = 0xBF800000)

/-! ### Frames and rules of the whole machine -/

/-- Rules R20, R25, R26, R28, R32, R33, R35, R230: what a command never writes, over all commands. -/
def Obligations.CommandRegisterFrame : Prop :=
  ∀ (i : Instr) (s t : State), exec i s = .next t →
    t.stg = s.stg ∧ t.curOfs = s.curOfs ∧ t.underruns = s.underruns ∧ t.peekAddr = s.peekAddr ∧
    t.inputs = s.inputs ∧ t.label = s.label ∧ t.mem.epoch = s.mem.epoch ∧
    (i ≠ .snapshot → t.snap = s.snap) ∧ (i ≠ .start → t.run = s.run) ∧
    (updatesSynth i = false → t.act.synth = s.act.synth) ∧
    (isKeyEvent i = false → t.relOfs = s.relOfs) ∧
    ((∀ k v, i ≠ .keyPress k v) → t.lastKey = s.lastKey ∧ t.trigOfs = s.trigOfs)

/-- Rules R29, R30, R31 and R60: a command stores to a buffer only through the update paths its rule names,
and then only below the new size: every other entry of every buffer reads as before. -/
def Obligations.CommandBufferFrame : Prop :=
  ∀ (i : Instr) (s t : State), exec i s = .next t →
    (∀ u, updatesOsc i u = false → SameOsc u t s) ∧ (updatesEnv i = false → SameEnv t s) ∧
    (∀ u k, t.oscSize.get u ≤ k → t.mem.read (.osc u) k = s.mem.read (.osc u) k) ∧
    (∀ k, t.adSize ≤ k → t.mem.read .ad k = s.mem.read .ad k) ∧
    ∀ k, t.relSize ≤ k → t.mem.read .rel k = s.mem.read .rel k

/-- Rules R35, R44 (h), R230: a command ORs its RESULT into ERR and never sets a bit outside the mask, in
particular not E_UNDERRUN. -/
def Obligations.CommandErrAccumulates : Prop :=
  ∀ (i : Instr) (s t : State), exec i s = .next t →
    t.err = s.err ||| t.result ∧ t.result &&& ~~~0x00000F17 = 0

/-- Rule R263: the codes each command can produce, the unreachable `E_FREQ|E_CAP` among none of them;
APPLY_FULL's RESULT is an OR of one code of each of its four parts. The premise of KEY_PRESS is the
invariant: a configured envelope's durations were accepted before, an unconfigured one's are +0 (log
entry 8). -/
def Obligations.ResultCodesPerCommand : Prop :=
  ∀ s t : State,
    (∀ i ∈ [Instr.nop, .start, .setLfoEn true, .setLfoEn false, .setSyncEn true, .setSyncEn false, .setNoise,
      .snapshot], exec i s = .next t → t.result = 0) ∧
    (∀ k, exec (.keyRelease k) s = .next t → t.result = 0) ∧
    (∀ u, exec (.oscUpdate u) s = .next t ∨ exec (.oscSetWave u) s = .next t →
      t.result = 0 ∨ t.result = 0x010 ||| rejUnit u ∨ t.result = 0x001 ||| rejUnit u) ∧
    (∀ u, exec (.oscSetAmp u) s = .next t ∨ exec (.oscSetFreq u) s = .next t →
      t.result = 0 ∨ t.result = 0x001 ||| rejUnit u) ∧
    (exec .envUpdate s = .next t → t.result = 0 ∨ t.result = 0x802 ∨ t.result = 0x806) ∧
    (∀ k v, Inv s → exec (.keyPress k v) s = .next t →
      t.result = (if oscFreqOk .osc1 (noteFreq k) then 0 else 0x101) |||
        (if s.adSize = 0 then 0x802 else 0)) ∧
    (exec .applyFull s = .next t →
      ∃ r1 ∈ ([0x000, 0x110, 0x101] : List Word), ∃ r2 ∈ ([0x000, 0x210, 0x201] : List Word),
        ∃ r3 ∈ ([0x000, 0x410, 0x401] : List Word), ∃ r4 ∈ ([0x000, 0x802, 0x806] : List Word),
          t.result = r1 ||| r2 ||| r3 ||| r4)

/-- Rules R28 and R208: the counter changes only by a PRODUCE, by one period, or at a reset. Rule R33: only
the word of START sets `run`, and only a reset clears it. -/
def Obligations.SequencingStateWriters : Prop :=
  ∀ s t : State, step s = .next t →
    (t.curOfs ≠ s.curOfs →
      (∃ accepted rest, s.inputs = .tick accepted :: rest ∧ s.run = true ∧ t.curOfs = s.curOfs + 441) ∨
      ∃ rest, s.inputs = .reset :: rest ∧ t.curOfs = 0) ∧
    (s.run = false → t.run = true → ∃ rest, s.inputs = .write .word 0x080 0x01000000 :: rest) ∧
    (s.run = true → t.run = false → ∃ rest, s.inputs = .reset :: rest)

/-- Rule R35: a bit of ERR is cleared only by a write of a 1 to it, or by a reset. -/
def Obligations.ErrBitsSticky : Prop :=
  ∀ (s t : State) (b : Nat), step s = .next t → s.err.getLsbD b = true → t.err.getLsbD b = false →
    (∃ v rest, s.inputs = .write .word 0x08C v :: rest ∧ v.getLsbD b = true) ∨
    ∃ rest, s.inputs = .reset :: rest

/-- Rules R25, R26, R32 and R37: STG is written by the host only, SNAP by SNAPSHOT only, `lastKey` by
KEY_PRESS only and UNDERRUNS by PRODUCE only, but for a reset. -/
def Obligations.OnlyTheirWriterChanges : Prop :=
  ∀ s t : State, step s = .next t → (¬∃ rest, s.inputs = .reset :: rest) →
    (t.stg ≠ s.stg → ∃ off v rest, s.inputs = .write .word off v :: rest ∧ off.toNat ≤ 0x03C) ∧
    (t.snap ≠ s.snap → ∃ rest, s.inputs = .write .word 0x080 0x41000000 :: rest) ∧
    (t.lastKey ≠ s.lastKey → ∃ k v rest, k < 128 ∧ v < 128 ∧
      s.inputs = .write .word 0x080 (encode (.keyPress k v)) :: rest) ∧
    (t.underruns ≠ s.underruns → ∃ accepted rest, s.inputs = .tick accepted :: rest ∧ s.run = true)

/-! ### The invariants -/

/-- The invariant of rule R44 (with log entry 8) holds at reset. -/
def Obligations.ResetMeetsInvariant : Prop := Inv State.reset

/-- Rule R44: every step keeps the invariants, from every state that meets them: sizes within capacities,
buffers equal to what their accepted parameters generate, legal `lastKey` and SNAP, reserved report bits
0. That an unconfigured part holds its reset record is the model's inference from rules R45, R152 and R172
(log entry 8). -/
def Obligations.StepKeepsInvariant : Prop :=
  ∀ s t : State, Inv s → step s = .next t → Inv t

/-- Rule R44, "the engine never enters an unplayable state due to a bad parameter write": every run from a
state that meets the invariants keeps them and is never stuck. The invariants say more than rule R44: an
unconfigured part holds its reset record, inferred from rules R45, R152 and R172 (log entry 8). -/
def Obligations.InvariantStatesAreSafe : Prop := ∀ s : State, Inv s → SafeFrom s
end

