-- ==== Sys2Proof/Laws/Float.lean ====
section
/-! SUPPORT. The binary32 arithmetic: patterns and their parts, negation, finite patterns, NaNs, and that
rounding is monotone and leaves representable values alone. -/

namespace Sys2Proof.Machine

theorem fmag_lt (a : F32) : fmag a < 2 ^ 31 := Nat.mod_lt _ (by decide)

theorem roundMag_le (n d : Nat) : roundMag n d ≤ infMag := Nat.min_le_right _ _

theorem toNat_fpack {sign : Bool} {m : Nat} (h : m ≤ infMag) :
    (fpack sign m).toNat = if sign then m + 2 ^ 31 else m := by
  have hm : m < 2 ^ 31 := lt_of_le_of_lt h (by decide)
  cases sign
  · simp [fpack, BitVec.toNat_ofNat]; omega
  · simp [fpack, BitVec.toNat_ofNat]; omega

@[simp] theorem fmag_fpack {sign : Bool} {m : Nat} (h : m ≤ infMag) : fmag (fpack sign m) = m := by
  have hm : m < 2 ^ 31 := lt_of_le_of_lt h (by decide)
  rw [fmag, toNat_fpack h]
  split <;> omega

@[simp] theorem fsign_fpack {sign : Bool} {m : Nat} (h : m ≤ infMag) : fsign (fpack sign m) = sign := by
  have hm : m < 2 ^ 31 := lt_of_le_of_lt h (by decide)
  rw [fsign, BitVec.msb_eq_decide, toNat_fpack h]
  cases sign
  · simp; omega
  · simp

theorem isNaN_fpack {sign : Bool} {m : Nat} (h : m ≤ infMag) : isNaN (fpack sign m) = false := by
  simp [isNaN, fmag_fpack h, h]

theorem isInf_fpack {sign : Bool} {m : Nat} (h : m ≤ infMag) :
    isInf (fpack sign m) = decide (m = infMag) := by
  simp [isInf, fmag_fpack h]

theorem orderKey_fpack {sign : Bool} {m : Nat} (h : m ≤ infMag) :
    orderKey (fpack sign m) = if sign then -(m : Int) else m := by
  simp [orderKey, fmag_fpack h, fsign_fpack h]

theorem toNat_eq_fmag (a : F32) : a.toNat = fmag a + if fsign a then 2 ^ 31 else 0 := by
  have := a.isLt
  rw [fmag, fsign, BitVec.msb_eq_decide]
  simp only [decide_eq_true_eq]
  split
  · omega
  · omega

/-- A pattern is its sign and its magnitude. -/
theorem f32_ext {a b : F32} (hs : fsign a = fsign b) (hm : fmag a = fmag b) : a = b := by
  apply BitVec.eq_of_toNat_eq
  rw [toNat_eq_fmag, toNat_eq_fmag, hs, hm]

theorem fpack_fsign_fmag (a : F32) : fpack (fsign a) (fmag a) = a := by
  apply BitVec.eq_of_toNat_eq
  have := a.isLt
  have h := toNat_eq_fmag a
  rw [fpack, BitVec.toNat_ofNat, h]
  split <;> split at h <;> simp_all

/-! ### Negation -/

@[simp] theorem fmag_fneg (a : F32) : fmag (fneg a) = fmag a := by
  have h : (fneg a).toNat = a.toNat ^^^ 2 ^ 31 := by simp [fneg]
  rw [fmag, h, Nat.xor_mod_two_pow, Nat.mod_self, Nat.xor_zero, fmag]

@[simp] theorem fsign_fneg (a : F32) : fsign (fneg a) = !fsign a := by
  have h : BitVec.msb (0x80000000 : F32) = true := by decide
  rw [fsign, fneg, BitVec.msb_xor, h, Bool.xor_true, fsign]

@[simp] theorem isNaN_fneg (a : F32) : isNaN (fneg a) = isNaN a := by simp [isNaN]

@[simp] theorem isInf_fneg (a : F32) : isInf (fneg a) = isInf a := by simp [isInf]

@[simp] theorem isZero_fneg (a : F32) : isZero (fneg a) = isZero a := by simp [isZero]

/-- Negation negates the value (rule R121). -/
@[simp] theorem units_fneg (a : F32) : units (fneg a) = -units a := by
  unfold units absUnits
  rw [fsign_fneg, fmag_fneg]
  cases fsign a <;> simp

@[simp] theorem value_fneg (a : F32) : value (fneg a) = -value a := by
  simp [value, neg_div]

/-! ### Finite patterns -/

/-- Two finite values sum to 0 exactly when their multiples of the unit do. -/
theorem value_add_eq_zero_iff (a b : F32) : value a + value b = 0 ↔ units a + units b = 0 := by
  have h : (2 : ℚ) ^ 149 ≠ 0 := by positivity
  rw [value, value, ← add_div, div_eq_zero_iff]
  constructor
  · rintro (h0 | h0)
    · exact_mod_cast h0
    · exact absurd h0 h
  · exact fun h0 => .inl (by exact_mod_cast h0)

theorem isNaN_of_isFinite {a : F32} (h : isFinite a) : isNaN a = false := by
  unfold isFinite at h
  simp only [isNaN, decide_eq_false_iff_not]
  omega

theorem isInf_of_isFinite {a : F32} (h : isFinite a) : isInf a = false := by
  unfold isFinite at h
  simp only [isInf, decide_eq_false_iff_not]
  omega

theorem isNaN_of_isInf {a : F32} (h : isInf a = true) : isNaN a = false := by
  simp only [isInf, decide_eq_true_eq] at h
  simp [isNaN, h]

theorem isZero_of_isInf {a : F32} (h : isInf a = true) : isZero a = false := by
  simp only [isInf, decide_eq_true_eq] at h
  simp [isZero, h, infMag]

/-- A natural converts to a pattern of its sign, which is no NaN (rule R123). -/
@[simp] theorem fsign_u2f (n : Nat) : fsign (u2f n) = false := fsign_fpack (roundMag_le _ _)

@[simp] theorem isNaN_u2f (n : Nat) : isNaN (u2f n) = false := isNaN_fpack (roundMag_le _ _)

/-! ### NaNs -/

/-- A pattern with all exponent bits set and a fraction bit set is a NaN (rule R120). -/
theorem isNaN_of_or (r : Word) (c : Nat) (hc : c < 2 ^ 31) (hinf : infMag ≤ c)
    (hfrac : (r.toNat ||| c) % 2 ^ 23 ≠ 0) : isNaN (r ||| BitVec.ofNat 32 c) = true := by
  have hm : fmag (r ||| BitVec.ofNat 32 c) = r.toNat % 2 ^ 31 ||| c := by
    have h32 : c % 2 ^ 32 = c := Nat.mod_eq_of_lt (by omega)
    have h31 : c % 2 ^ 31 = c := Nat.mod_eq_of_lt hc
    rw [fmag, BitVec.toNat_or, BitVec.toNat_ofNat, h32, Nat.or_mod_two_pow, h31]
  have hle : c ≤ r.toNat % 2 ^ 31 ||| c := Nat.right_le_or
  have hne : (r.toNat % 2 ^ 31 ||| c) ≠ infMag := by
    intro he
    apply hfrac
    have h1 := Nat.or_mod_two_pow (a := r.toNat % 2 ^ 31) (b := c) (n := 23)
    have h2 := Nat.or_mod_two_pow (a := r.toNat) (b := c) (n := 23)
    have h3 : r.toNat % 2 ^ 31 % 2 ^ 23 = r.toNat % 2 ^ 23 := by omega
    rw [h3, ← h2, he] at h1
    rw [← h1]
    decide
  simp only [isNaN, hm, decide_eq_true_eq]
  omega

/-- Whatever the free value, an operation that returns a NaN returns a NaN (rule R121). -/
@[simp] theorem isNaN_nanResult (op : FloatOp) (a b : F32) : isNaN (nanResult op a b) = true := by
  unfold nanResult
  generalize Config.freeNan op a b = r
  split
  · refine isNaN_of_or r 0x7FC00000 (by decide) (by decide) fun h => ?_
    have h2 := Nat.or_mod_two_pow (a := r.toNat) (b := 0x7FC00000) (n := 23)
    rw [h] at h2
    have : 0x7FC00000 % 2 ^ 23 ≤ r.toNat % 2 ^ 23 ||| 0x7FC00000 % 2 ^ 23 := Nat.right_le_or
    rw [← h2] at this
    exact absurd this (by decide)
  · next hz =>
    refine isNaN_of_or r 0x7F800000 (by decide) (by decide) fun h => hz ?_
    have h2 := Nat.or_mod_two_pow (a := r.toNat) (b := 0x7F800000) (n := 23)
    have h0 : 0x7F800000 % 2 ^ 23 = 0 := by decide
    rw [h, h0, Nat.or_zero] at h2
    apply BitVec.eq_of_toNat_eq
    have hf : r.toNat &&& (2 ^ 23 - 1) = r.toNat % 2 ^ 23 := Nat.and_two_pow_sub_one_eq_mod _ 23
    rw [BitVec.toNat_and]
    exact hf.trans h2.symm

theorem fle_of_isNaN_left {a : F32} (h : isNaN a = true) (b : F32) : fle a b = false := by simp [fle, h]

theorem fle_of_isNaN_right {b : F32} (h : isNaN b = true) (a : F32) : fle a b = false := by simp [fle, h]

theorem flt_of_isNaN_left {a : F32} (h : isNaN a = true) (b : F32) : flt a b = false := by simp [flt, h]

theorem flt_of_isNaN_right {b : F32} (h : isNaN b = true) (a : F32) : flt a b = false := by simp [flt, h]

/-- A NaN sample becomes 0 (rule R126). -/
theorem f2i16_of_isNaN {a : F32} (h : isNaN a = true) : f2i16 a = 0 := by simp [f2i16, f2i16Int, h]

theorem fmul_of_isNaN {a b : F32} (h : isNaN a = true ∨ isNaN b = true) : isNaN (fmul a b) = true := by
  have : (isNaN a || isNaN b) = true := by simpa using h
  simp [fmul, this]

theorem addWith_of_isNaN {op : FloatOp} {na nb a b : F32} (h : isNaN a = true ∨ isNaN b = true) :
    isNaN (addWith op na nb a b) = true := by
  have : (isNaN a || isNaN b) = true := by simpa using h
  simp [addWith, this]

/-! ### Rounding -/

theorem divNearestEven_bounds (n d : Nat) : n / d ≤ divNearestEven n d ∧ divNearestEven n d ≤ n / d + 1 := by
  unfold divNearestEven
  split <;> omega

/-- Rounding a quotient to the nearest integer is monotone in the quotient. -/
theorem divNearestEven_mono {n d n' d' : Nat} (hd : 0 < d) (hd' : 0 < d') (h : n * d' ≤ n' * d) :
    divNearestEven n d ≤ divNearestEven n' d' := by
  have hq : n / d ≤ n' / d' := by
    rw [Nat.le_div_iff_mul_le hd']
    have h1 : n / d * d ≤ n := Nat.div_mul_le_self n d
    have : n / d * d' * d ≤ n' * d := by
      calc n / d * d' * d = n / d * d * d' := by ring
        _ ≤ n * d' := Nat.mul_le_mul_right _ h1
        _ ≤ n' * d := h
    exact Nat.le_of_mul_le_mul_right this hd
  rcases Nat.lt_or_ge (n / d) (n' / d') with hlt | hge
  · exact le_trans (divNearestEven_bounds n d).2 (le_trans hlt (divNearestEven_bounds n' d').1)
  · have he : n / d = n' / d' := le_antisymm hq hge
    have e1 : d * (n / d) + n % d = n := Nat.div_add_mod n d
    have e2 : d' * (n' / d') + n' % d' = n' := Nat.div_add_mod n' d'
    have hr : n % d * d' ≤ n' % d' * d := by
      rw [← e1, ← e2, he] at h
      simp only [Nat.add_mul] at h
      have : d * (n' / d') * d' = d' * (n' / d') * d := by ring
      have h2 := this ▸ h
      simpa [Nat.add_mod, Nat.mul_mod_right, he] using h2
    unfold divNearestEven
    rw [← he]
    split
    · split <;> omega
    · next hn =>
      split
      · next hy =>
        exfalso
        rcases hy with hy | ⟨hy, hp⟩
        · apply hn
          left
          nlinarith
        · apply hn
          rcases Nat.lt_or_ge (2 * (n % d)) d with hl | hl
          · exact .inl hl
          · right
            refine ⟨?_, hp⟩
            by_contra hne
            have hgt : d < 2 * (n % d) := lt_of_le_of_ne hl (Ne.symm hne)
            nlinarith
      · exact le_refl _

/-- The exponent `roundMag` chooses. -/
theorem roundMag_quotient_bounds {q e : Nat} (he : e = Nat.log2 q - 23) :
    q < 2 ^ (24 + e) ∧ (0 < e → 2 ^ (23 + e) ≤ q) := by
  subst he
  constructor
  · rcases Nat.eq_zero_or_pos q with rfl | hq
    · exact Nat.two_pow_pos _
    · refine lt_of_lt_of_le Nat.lt_log2_self (Nat.pow_le_pow_right (by decide) ?_)
      omega
  · intro hp
    have hq : q ≠ 0 := by rintro rfl; simp at hp
    have : 23 + (Nat.log2 q - 23) = Nat.log2 q := by omega
    rw [this]
    exact Nat.log2_self_le hq

/-- Rounding to a binary32 magnitude is monotone in the exact value. -/
theorem roundMag_mono {n d n' d' : Nat} (hd : 0 < d) (hd' : 0 < d') (h : n * d' ≤ n' * d) :
    roundMag n d ≤ roundMag n' d' := by
  have hq : n / d ≤ n' / d' := by
    rw [Nat.le_div_iff_mul_le hd']
    have h1 : n / d * d ≤ n := Nat.div_mul_le_self n d
    have : n / d * d' * d ≤ n' * d := by
      calc n / d * d' * d = n / d * d * d' := by ring
        _ ≤ n * d' := Nat.mul_le_mul_right _ h1
        _ ≤ n' * d := h
    exact Nat.le_of_mul_le_mul_right this hd
  unfold roundMag
  generalize hE : roundExp n d = e
  generalize hE' : roundExp n' d' = e'
  unfold roundExp at hE hE'
  obtain ⟨b1, -⟩ := roundMag_quotient_bounds hE.symm
  obtain ⟨-, b2⟩ := roundMag_quotient_bounds hE'.symm
  have hee : e ≤ e' := by
    rcases Nat.eq_zero_or_pos (n / d) with hz | hp
    · rw [← hE, hz]; simp
    · have h1 := Nat.log2_self_le (n := n / d) (by omega)
      have h2 := (Nat.le_log2 (n := n' / d') (k := (n / d).log2) (by omega)).2 (h1.trans hq)
      omega
  refine min_le_min ?_ le_rfl
  rcases Nat.eq_or_lt_of_le hee with rfl | hlt
  · refine Nat.add_le_add_left (divNearestEven_mono ?_ ?_ ?_) _
    · exact Nat.mul_pos hd (Nat.two_pow_pos _)
    · exact Nat.mul_pos hd' (Nat.two_pow_pos _)
    · have := Nat.mul_le_mul_right (2 ^ e) h
      calc n * (d' * 2 ^ e) = n * d' * 2 ^ e := by ring
        _ ≤ n' * d * 2 ^ e := this
        _ = n' * (d * 2 ^ e) := by ring
  · have hlow : n / (d * 2 ^ e) < 2 ^ 24 := by
      rw [← Nat.div_div_eq_div_mul, Nat.div_lt_iff_lt_mul (Nat.two_pow_pos _), ← pow_add]
      exact b1
    have hup := (divNearestEven_bounds n (d * 2 ^ e)).2
    have hhigh : 2 ^ 23 ≤ n' / (d' * 2 ^ e') := by
      rw [← Nat.div_div_eq_div_mul, Nat.le_div_iff_mul_le (Nat.two_pow_pos _), ← pow_add]
      exact b2 (by omega)
    have hdn := (divNearestEven_bounds n' (d' * 2 ^ e')).1
    have : e * 2 ^ 23 + 2 * 2 ^ 23 ≤ e' * 2 ^ 23 + 2 ^ 23 := by
      have := Nat.mul_le_mul_right (2 ^ 23) (Nat.succ_le_of_lt hlt)
      omega
    omega

/-- The exponent field and the fraction make up the pattern of a normal number. -/
theorem split_pattern (m : Nat) (hp : 0 < m / 2 ^ 23) :
    (m / 2 ^ 23 - 1) * 2 ^ 23 + (2 ^ 23 + m % 2 ^ 23) = m := by
  have hdm := Nat.div_add_mod m (2 ^ 23)
  rw [← Nat.add_assoc, ← Nat.succ_mul, Nat.succ_eq_add_one, Nat.sub_add_cancel hp, Nat.mul_comm]
  exact hdm

/-- A larger pattern stands for a magnitude that is not smaller. -/
theorem magUnits_mono {m n : Nat} (h : m ≤ n) : magUnits m ≤ magUnits n := by
  have hd : m / 2 ^ 23 ≤ n / 2 ^ 23 := Nat.div_le_div_right h
  have hm : m % 2 ^ 23 < 2 ^ 23 := Nat.mod_lt _ (by decide)
  unfold magUnits
  split
  · split
    · exact h
    · next hn =>
      have : m < 2 ^ 23 := by omega
      have := Nat.one_le_two_pow (n := n / 2 ^ 23 - 1)
      nlinarith [Nat.zero_le (n % 2 ^ 23)]
  · next hm0 =>
    rw [if_neg (by omega)]
    rcases Nat.eq_or_lt_of_le hd with he | hlt
    · rw [he]
      exact Nat.mul_le_mul_right _ (by omega)
    · have hp : 2 ^ (n / 2 ^ 23 - 1) = 2 ^ (n / 2 ^ 23 - 1 - m / 2 ^ 23) * 2 * 2 ^ (m / 2 ^ 23 - 1) := by
        rw [mul_assoc, ← pow_succ', ← pow_add]
        congr 1
        omega
      have h1 := Nat.one_le_two_pow (n := n / 2 ^ 23 - 1 - m / 2 ^ 23)
      rw [hp, ← mul_assoc]
      refine Nat.mul_le_mul_right _ ?_
      nlinarith [Nat.zero_le (n % 2 ^ 23)]

/-- Only the zeros have magnitude 0. -/
theorem magUnits_pos {m : Nat} (h : 0 < m) : 0 < magUnits m := by
  unfold magUnits
  split
  · exact h
  · positivity

/-- A representable magnitude is its own rounding. -/
theorem roundMag_magUnits {m d : Nat} (hd : 0 < d) (hm : m ≤ infMag) : roundMag (magUnits m * d) d = m := by
  have hdiv : ∀ x : Nat, x * d / d = x := fun x => Nat.mul_div_cancel x hd
  have hexact : ∀ x y : Nat, 0 < y → divNearestEven (x * y) y = x := by
    intro x y hy
    simp [divNearestEven, Nat.mul_mod_left, Nat.mul_div_cancel _ hy, hy]
  unfold roundMag roundExp
  rw [hdiv]
  have hM : infMag = 255 * 2 ^ 23 := by decide
  have hm31 : m < 256 * 2 ^ 23 := by omega
  have key : ∀ e f : Nat, f < 2 ^ 23 → magUnits m = (2 ^ 23 + f) * 2 ^ e →
      Nat.log2 (magUnits m) - 23 = e := by
    intro e f hf h
    have h1 : 2 ^ (23 + e) ≤ magUnits m := by
      rw [h, pow_add]; exact Nat.mul_le_mul_right _ (by omega)
    have h2 : magUnits m < 2 ^ (24 + e) := by
      rw [h, pow_add]; exact Nat.mul_lt_mul_of_pos_right (by omega) (Nat.two_pow_pos _)
    have h0 : magUnits m ≠ 0 := by
      have := Nat.two_pow_pos (23 + e)
      omega
    have l1 := (Nat.le_log2 h0).2 h1
    have l2 := (Nat.log2_lt h0).2 h2
    omega
  rcases Nat.eq_zero_or_pos (m / 2 ^ 23) with hz | hp
  · have hmu : magUnits m = m := if_pos hz
    have hsm : m < 2 ^ 23 := by omega
    have he : Nat.log2 (magUnits m) - 23 = 0 := by
      rw [hmu]
      rcases Nat.eq_zero_or_pos m with rfl | hpos
      · simp
      · have := (Nat.log2_lt (by omega)).2 hsm
        omega
    rw [he, hmu, pow_zero, mul_one, hexact m d hd]
    omega
  · have hmu : magUnits m = (2 ^ 23 + m % 2 ^ 23) * 2 ^ (m / 2 ^ 23 - 1) := by
      unfold magUnits
      rw [if_neg (by omega)]
    have he := key (m / 2 ^ 23 - 1) (m % 2 ^ 23) (Nat.mod_lt _ (by decide)) hmu
    rw [he, hmu]
    have : (2 ^ 23 + m % 2 ^ 23) * 2 ^ (m / 2 ^ 23 - 1) * d =
        (2 ^ 23 + m % 2 ^ 23) * (d * 2 ^ (m / 2 ^ 23 - 1)) := by ring
    rw [this, hexact _ _ (Nat.mul_pos hd (Nat.two_pow_pos _))]
    exact (congrArg (min · infMag) (split_pattern m hp)).trans (min_eq_left hm)

end Sys2Proof.Machine
end

