-- ==== Sys2Proof/Laws/State.lean ====
section
/-! SUPPORT. One lemma per field of State per named update, each true by unfolding the update once, so that
no later proof unfolds a record update. -/

namespace Sys2Proof.Machine

/-! ### `State.report` -/

@[simp] theorem State.report_act (r : Word) (s : State) : (s.report r).act = s.act := rfl
@[simp] theorem State.report_stg (r : Word) (s : State) : (s.report r).stg = s.stg := rfl
@[simp] theorem State.report_snap (r : Word) (s : State) : (s.report r).snap = s.snap := rfl
@[simp] theorem State.report_oscSize (r : Word) (s : State) : (s.report r).oscSize = s.oscSize := rfl
@[simp] theorem State.report_mem (r : Word) (s : State) : (s.report r).mem = s.mem := rfl
@[simp] theorem State.report_atkSize (r : Word) (s : State) : (s.report r).atkSize = s.atkSize := rfl
@[simp] theorem State.report_adSize (r : Word) (s : State) : (s.report r).adSize = s.adSize := rfl
@[simp] theorem State.report_relSize (r : Word) (s : State) : (s.report r).relSize = s.relSize := rfl
@[simp] theorem State.report_trigOfs (r : Word) (s : State) : (s.report r).trigOfs = s.trigOfs := rfl
@[simp] theorem State.report_relOfs (r : Word) (s : State) : (s.report r).relOfs = s.relOfs := rfl
@[simp] theorem State.report_curOfs (r : Word) (s : State) : (s.report r).curOfs = s.curOfs := rfl
@[simp] theorem State.report_lastKey (r : Word) (s : State) : (s.report r).lastKey = s.lastKey := rfl
@[simp] theorem State.report_run (r : Word) (s : State) : (s.report r).run = s.run := rfl
@[simp] theorem State.report_result (r : Word) (s : State) : (s.report r).result = r := rfl
@[simp] theorem State.report_err (r : Word) (s : State) : (s.report r).err = s.err ||| r := rfl
@[simp] theorem State.report_underruns (r : Word) (s : State) : (s.report r).underruns = s.underruns := rfl
@[simp] theorem State.report_peekAddr (r : Word) (s : State) : (s.report r).peekAddr = s.peekAddr := rfl
@[simp] theorem State.report_inputs (r : Word) (s : State) : (s.report r).inputs = s.inputs := rfl
@[simp] theorem State.report_label (r : Word) (s : State) : (s.report r).label = s.label := rfl

/-! ### `State.reportUnderrun` -/

@[simp] theorem State.reportUnderrun_act (s : State) : (s.reportUnderrun).act = s.act := rfl
@[simp] theorem State.reportUnderrun_stg (s : State) : (s.reportUnderrun).stg = s.stg := rfl
@[simp] theorem State.reportUnderrun_snap (s : State) : (s.reportUnderrun).snap = s.snap := rfl
@[simp] theorem State.reportUnderrun_oscSize (s : State) : (s.reportUnderrun).oscSize = s.oscSize := rfl
@[simp] theorem State.reportUnderrun_mem (s : State) : (s.reportUnderrun).mem = s.mem := rfl
@[simp] theorem State.reportUnderrun_atkSize (s : State) : (s.reportUnderrun).atkSize = s.atkSize := rfl
@[simp] theorem State.reportUnderrun_adSize (s : State) : (s.reportUnderrun).adSize = s.adSize := rfl
@[simp] theorem State.reportUnderrun_relSize (s : State) : (s.reportUnderrun).relSize = s.relSize := rfl
@[simp] theorem State.reportUnderrun_trigOfs (s : State) : (s.reportUnderrun).trigOfs = s.trigOfs := rfl
@[simp] theorem State.reportUnderrun_relOfs (s : State) : (s.reportUnderrun).relOfs = s.relOfs := rfl
@[simp] theorem State.reportUnderrun_curOfs (s : State) : (s.reportUnderrun).curOfs = s.curOfs := rfl
@[simp] theorem State.reportUnderrun_lastKey (s : State) : (s.reportUnderrun).lastKey = s.lastKey := rfl
@[simp] theorem State.reportUnderrun_run (s : State) : (s.reportUnderrun).run = s.run := rfl
@[simp] theorem State.reportUnderrun_result (s : State) : (s.reportUnderrun).result = s.result := rfl
@[simp] theorem State.reportUnderrun_err (s : State) :
    (s.reportUnderrun).err =
      s.err ||| ErrClass.underrun.bit := rfl
@[simp] theorem State.reportUnderrun_underruns (s : State) :
    (s.reportUnderrun).underruns =
      BitVec.ofNat 32 (min (s.underruns.toNat + 1) 0xFFFFFFFF) := rfl
@[simp] theorem State.reportUnderrun_peekAddr (s : State) : (s.reportUnderrun).peekAddr = s.peekAddr := rfl
@[simp] theorem State.reportUnderrun_inputs (s : State) : (s.reportUnderrun).inputs = s.inputs := rfl
@[simp] theorem State.reportUnderrun_label (s : State) : (s.reportUnderrun).label = s.label := rfl

/-! ### `State.setSynth` -/

@[simp] theorem State.setSynth_act (p : SynthParams) (s : State) :
    (s.setSynth p).act =
      { s.act with synth := p } := rfl
@[simp] theorem State.setSynth_stg (p : SynthParams) (s : State) : (s.setSynth p).stg = s.stg := rfl
@[simp] theorem State.setSynth_snap (p : SynthParams) (s : State) : (s.setSynth p).snap = s.snap := rfl
@[simp] theorem State.setSynth_oscSize (p : SynthParams) (s : State) :
    (s.setSynth p).oscSize =
      s.oscSize := rfl
@[simp] theorem State.setSynth_mem (p : SynthParams) (s : State) : (s.setSynth p).mem = s.mem := rfl
@[simp] theorem State.setSynth_atkSize (p : SynthParams) (s : State) :
    (s.setSynth p).atkSize =
      s.atkSize := rfl
@[simp] theorem State.setSynth_adSize (p : SynthParams) (s : State) : (s.setSynth p).adSize = s.adSize := rfl
@[simp] theorem State.setSynth_relSize (p : SynthParams) (s : State) :
    (s.setSynth p).relSize =
      s.relSize := rfl
@[simp] theorem State.setSynth_trigOfs (p : SynthParams) (s : State) :
    (s.setSynth p).trigOfs =
      s.trigOfs := rfl
@[simp] theorem State.setSynth_relOfs (p : SynthParams) (s : State) : (s.setSynth p).relOfs = s.relOfs := rfl
@[simp] theorem State.setSynth_curOfs (p : SynthParams) (s : State) : (s.setSynth p).curOfs = s.curOfs := rfl
@[simp] theorem State.setSynth_lastKey (p : SynthParams) (s : State) :
    (s.setSynth p).lastKey =
      s.lastKey := rfl
@[simp] theorem State.setSynth_run (p : SynthParams) (s : State) : (s.setSynth p).run = s.run := rfl
@[simp] theorem State.setSynth_result (p : SynthParams) (s : State) : (s.setSynth p).result = s.result := rfl
@[simp] theorem State.setSynth_err (p : SynthParams) (s : State) : (s.setSynth p).err = s.err := rfl
@[simp] theorem State.setSynth_underruns (p : SynthParams) (s : State) :
    (s.setSynth p).underruns =
      s.underruns := rfl
@[simp] theorem State.setSynth_peekAddr (p : SynthParams) (s : State) :
    (s.setSynth p).peekAddr =
      s.peekAddr := rfl
@[simp] theorem State.setSynth_inputs (p : SynthParams) (s : State) : (s.setSynth p).inputs = s.inputs := rfl
@[simp] theorem State.setSynth_label (p : SynthParams) (s : State) : (s.setSynth p).label = s.label := rfl

/-! ### `State.advance` -/

@[simp] theorem State.advance_act (s : State) : (s.advance).act = s.act := rfl
@[simp] theorem State.advance_stg (s : State) : (s.advance).stg = s.stg := rfl
@[simp] theorem State.advance_snap (s : State) : (s.advance).snap = s.snap := rfl
@[simp] theorem State.advance_oscSize (s : State) : (s.advance).oscSize = s.oscSize := rfl
@[simp] theorem State.advance_mem (s : State) : (s.advance).mem = s.mem := rfl
@[simp] theorem State.advance_atkSize (s : State) : (s.advance).atkSize = s.atkSize := rfl
@[simp] theorem State.advance_adSize (s : State) : (s.advance).adSize = s.adSize := rfl
@[simp] theorem State.advance_relSize (s : State) : (s.advance).relSize = s.relSize := rfl
@[simp] theorem State.advance_trigOfs (s : State) : (s.advance).trigOfs = s.trigOfs := rfl
@[simp] theorem State.advance_relOfs (s : State) : (s.advance).relOfs = s.relOfs := rfl
@[simp] theorem State.advance_curOfs (s : State) :
    (s.advance).curOfs =
      s.curOfs + BitVec.ofNat 32 Config.PERIOD_SAMPLES := rfl
@[simp] theorem State.advance_lastKey (s : State) : (s.advance).lastKey = s.lastKey := rfl
@[simp] theorem State.advance_run (s : State) : (s.advance).run = s.run := rfl
@[simp] theorem State.advance_result (s : State) : (s.advance).result = s.result := rfl
@[simp] theorem State.advance_err (s : State) : (s.advance).err = s.err := rfl
@[simp] theorem State.advance_underruns (s : State) : (s.advance).underruns = s.underruns := rfl
@[simp] theorem State.advance_peekAddr (s : State) : (s.advance).peekAddr = s.peekAddr := rfl
@[simp] theorem State.advance_inputs (s : State) : (s.advance).inputs = s.inputs := rfl
@[simp] theorem State.advance_label (s : State) : (s.advance).label = s.label := rfl

/-! ### `envTrigger` -/

@[simp] theorem envTrigger_act (g : Word) (s : State) : (envTrigger g s).act = s.act := rfl
@[simp] theorem envTrigger_stg (g : Word) (s : State) : (envTrigger g s).stg = s.stg := rfl
@[simp] theorem envTrigger_snap (g : Word) (s : State) : (envTrigger g s).snap = s.snap := rfl
@[simp] theorem envTrigger_oscSize (g : Word) (s : State) : (envTrigger g s).oscSize = s.oscSize := rfl
@[simp] theorem envTrigger_mem (g : Word) (s : State) : (envTrigger g s).mem = s.mem := rfl
@[simp] theorem envTrigger_atkSize (g : Word) (s : State) : (envTrigger g s).atkSize = s.atkSize := rfl
@[simp] theorem envTrigger_adSize (g : Word) (s : State) : (envTrigger g s).adSize = s.adSize := rfl
@[simp] theorem envTrigger_relSize (g : Word) (s : State) : (envTrigger g s).relSize = s.relSize := rfl
@[simp] theorem envTrigger_trigOfs (g : Word) (s : State) : (envTrigger g s).trigOfs = g := rfl
@[simp] theorem envTrigger_relOfs (g : Word) (s : State) : (envTrigger g s).relOfs = 0xFFFFFFFF := rfl
@[simp] theorem envTrigger_curOfs (g : Word) (s : State) : (envTrigger g s).curOfs = s.curOfs := rfl
@[simp] theorem envTrigger_lastKey (g : Word) (s : State) : (envTrigger g s).lastKey = s.lastKey := rfl
@[simp] theorem envTrigger_run (g : Word) (s : State) : (envTrigger g s).run = s.run := rfl
@[simp] theorem envTrigger_result (g : Word) (s : State) : (envTrigger g s).result = s.result := rfl
@[simp] theorem envTrigger_err (g : Word) (s : State) : (envTrigger g s).err = s.err := rfl
@[simp] theorem envTrigger_underruns (g : Word) (s : State) : (envTrigger g s).underruns = s.underruns := rfl
@[simp] theorem envTrigger_peekAddr (g : Word) (s : State) : (envTrigger g s).peekAddr = s.peekAddr := rfl
@[simp] theorem envTrigger_inputs (g : Word) (s : State) : (envTrigger g s).inputs = s.inputs := rfl
@[simp] theorem envTrigger_label (g : Word) (s : State) : (envTrigger g s).label = s.label := rfl

/-! ### `envRelease` -/

@[simp] theorem envRelease_act (g : Word) (s : State) : (envRelease g s).act = s.act := rfl
@[simp] theorem envRelease_stg (g : Word) (s : State) : (envRelease g s).stg = s.stg := rfl
@[simp] theorem envRelease_snap (g : Word) (s : State) : (envRelease g s).snap = s.snap := rfl
@[simp] theorem envRelease_oscSize (g : Word) (s : State) : (envRelease g s).oscSize = s.oscSize := rfl
@[simp] theorem envRelease_mem (g : Word) (s : State) : (envRelease g s).mem = s.mem := rfl
@[simp] theorem envRelease_atkSize (g : Word) (s : State) : (envRelease g s).atkSize = s.atkSize := rfl
@[simp] theorem envRelease_adSize (g : Word) (s : State) : (envRelease g s).adSize = s.adSize := rfl
@[simp] theorem envRelease_relSize (g : Word) (s : State) : (envRelease g s).relSize = s.relSize := rfl
@[simp] theorem envRelease_trigOfs (g : Word) (s : State) : (envRelease g s).trigOfs = s.trigOfs := rfl
@[simp] theorem envRelease_relOfs (g : Word) (s : State) : (envRelease g s).relOfs = g := rfl
@[simp] theorem envRelease_curOfs (g : Word) (s : State) : (envRelease g s).curOfs = s.curOfs := rfl
@[simp] theorem envRelease_lastKey (g : Word) (s : State) : (envRelease g s).lastKey = s.lastKey := rfl
@[simp] theorem envRelease_run (g : Word) (s : State) : (envRelease g s).run = s.run := rfl
@[simp] theorem envRelease_result (g : Word) (s : State) : (envRelease g s).result = s.result := rfl
@[simp] theorem envRelease_err (g : Word) (s : State) : (envRelease g s).err = s.err := rfl
@[simp] theorem envRelease_underruns (g : Word) (s : State) : (envRelease g s).underruns = s.underruns := rfl
@[simp] theorem envRelease_peekAddr (g : Word) (s : State) : (envRelease g s).peekAddr = s.peekAddr := rfl
@[simp] theorem envRelease_inputs (g : Word) (s : State) : (envRelease g s).inputs = s.inputs := rfl
@[simp] theorem envRelease_label (g : Word) (s : State) : (envRelease g s).label = s.label := rfl

/-! ### `oscStore` -/

@[simp] theorem oscStore_act (u : OscUnit) (new : OscRequest) (w : Wave) (n : Nat) (s : State) :
    (oscStore u new w n s).act =
      { s.act with osc := s.act.osc.set u { amplitude := new.amp, frequency := new.freq, waveform := w } } := rfl
@[simp] theorem oscStore_stg (u : OscUnit) (new : OscRequest) (w : Wave) (n : Nat) (s : State) :
    (oscStore u new w n s).stg =
      s.stg := rfl
@[simp] theorem oscStore_snap (u : OscUnit) (new : OscRequest) (w : Wave) (n : Nat) (s : State) :
    (oscStore u new w n s).snap =
      s.snap := rfl
@[simp] theorem oscStore_oscSize (u : OscUnit) (new : OscRequest) (w : Wave) (n : Nat) (s : State) :
    (oscStore u new w n s).oscSize =
      s.oscSize.set u n := rfl
@[simp] theorem oscStore_mem (u : OscUnit) (new : OscRequest) (w : Wave) (n : Nat) (s : State) :
    (oscStore u new w n s).mem =
      s.mem.fill (.osc u) (generate w new.amp n) := rfl
@[simp] theorem oscStore_atkSize (u : OscUnit) (new : OscRequest) (w : Wave) (n : Nat) (s : State) :
    (oscStore u new w n s).atkSize =
      s.atkSize := rfl
@[simp] theorem oscStore_adSize (u : OscUnit) (new : OscRequest) (w : Wave) (n : Nat) (s : State) :
    (oscStore u new w n s).adSize =
      s.adSize := rfl
@[simp] theorem oscStore_relSize (u : OscUnit) (new : OscRequest) (w : Wave) (n : Nat) (s : State) :
    (oscStore u new w n s).relSize =
      s.relSize := rfl
@[simp] theorem oscStore_trigOfs (u : OscUnit) (new : OscRequest) (w : Wave) (n : Nat) (s : State) :
    (oscStore u new w n s).trigOfs =
      s.trigOfs := rfl
@[simp] theorem oscStore_relOfs (u : OscUnit) (new : OscRequest) (w : Wave) (n : Nat) (s : State) :
    (oscStore u new w n s).relOfs =
      s.relOfs := rfl
@[simp] theorem oscStore_curOfs (u : OscUnit) (new : OscRequest) (w : Wave) (n : Nat) (s : State) :
    (oscStore u new w n s).curOfs =
      s.curOfs := rfl
@[simp] theorem oscStore_lastKey (u : OscUnit) (new : OscRequest) (w : Wave) (n : Nat) (s : State) :
    (oscStore u new w n s).lastKey =
      s.lastKey := rfl
@[simp] theorem oscStore_run (u : OscUnit) (new : OscRequest) (w : Wave) (n : Nat) (s : State) :
    (oscStore u new w n s).run =
      s.run := rfl
@[simp] theorem oscStore_result (u : OscUnit) (new : OscRequest) (w : Wave) (n : Nat) (s : State) :
    (oscStore u new w n s).result =
      s.result := rfl
@[simp] theorem oscStore_err (u : OscUnit) (new : OscRequest) (w : Wave) (n : Nat) (s : State) :
    (oscStore u new w n s).err =
      s.err := rfl
@[simp] theorem oscStore_underruns (u : OscUnit) (new : OscRequest) (w : Wave) (n : Nat) (s : State) :
    (oscStore u new w n s).underruns =
      s.underruns := rfl
@[simp] theorem oscStore_peekAddr (u : OscUnit) (new : OscRequest) (w : Wave) (n : Nat) (s : State) :
    (oscStore u new w n s).peekAddr =
      s.peekAddr := rfl
@[simp] theorem oscStore_inputs (u : OscUnit) (new : OscRequest) (w : Wave) (n : Nat) (s : State) :
    (oscStore u new w n s).inputs =
      s.inputs := rfl
@[simp] theorem oscStore_label (u : OscUnit) (new : OscRequest) (w : Wave) (n : Nat) (s : State) :
    (oscStore u new w n s).label =
      s.label := rfl

/-! ### `envStore` -/

@[simp] theorem envStore_act (p : EnvParams) (z : EnvLengths) (s : State) :
    (envStore p z s).act =
      { s.act with env := p } := rfl
@[simp] theorem envStore_stg (p : EnvParams) (z : EnvLengths) (s : State) :
    (envStore p z s).stg =
      s.stg := rfl
@[simp] theorem envStore_snap (p : EnvParams) (z : EnvLengths) (s : State) :
    (envStore p z s).snap =
      s.snap := rfl
@[simp] theorem envStore_oscSize (p : EnvParams) (z : EnvLengths) (s : State) :
    (envStore p z s).oscSize =
      s.oscSize := rfl
@[simp] theorem envStore_mem (p : EnvParams) (z : EnvLengths) (s : State) :
    (envStore p z s).mem =
      (s.mem.fill .ad (adCurve p z)).fill .rel (releaseCurve p z) := rfl
@[simp] theorem envStore_atkSize (p : EnvParams) (z : EnvLengths) (s : State) :
    (envStore p z s).atkSize =
      z.attack := rfl
@[simp] theorem envStore_adSize (p : EnvParams) (z : EnvLengths) (s : State) :
    (envStore p z s).adSize =
      z.attack + z.decay := rfl
@[simp] theorem envStore_relSize (p : EnvParams) (z : EnvLengths) (s : State) :
    (envStore p z s).relSize =
      z.release := rfl
@[simp] theorem envStore_trigOfs (p : EnvParams) (z : EnvLengths) (s : State) :
    (envStore p z s).trigOfs =
      s.trigOfs := rfl
@[simp] theorem envStore_relOfs (p : EnvParams) (z : EnvLengths) (s : State) :
    (envStore p z s).relOfs =
      s.relOfs := rfl
@[simp] theorem envStore_curOfs (p : EnvParams) (z : EnvLengths) (s : State) :
    (envStore p z s).curOfs =
      s.curOfs := rfl
@[simp] theorem envStore_lastKey (p : EnvParams) (z : EnvLengths) (s : State) :
    (envStore p z s).lastKey =
      s.lastKey := rfl
@[simp] theorem envStore_run (p : EnvParams) (z : EnvLengths) (s : State) :
    (envStore p z s).run =
      s.run := rfl
@[simp] theorem envStore_result (p : EnvParams) (z : EnvLengths) (s : State) :
    (envStore p z s).result =
      s.result := rfl
@[simp] theorem envStore_err (p : EnvParams) (z : EnvLengths) (s : State) :
    (envStore p z s).err =
      s.err := rfl
@[simp] theorem envStore_underruns (p : EnvParams) (z : EnvLengths) (s : State) :
    (envStore p z s).underruns =
      s.underruns := rfl
@[simp] theorem envStore_peekAddr (p : EnvParams) (z : EnvLengths) (s : State) :
    (envStore p z s).peekAddr =
      s.peekAddr := rfl
@[simp] theorem envStore_inputs (p : EnvParams) (z : EnvLengths) (s : State) :
    (envStore p z s).inputs =
      s.inputs := rfl
@[simp] theorem envStore_label (p : EnvParams) (z : EnvLengths) (s : State) :
    (envStore p z s).label =
      s.label := rfl

/-! ### Updates of one kind meet -/

@[simp] theorem State.report_report (s : State) (r r' : Word) :
    ((s.report r).report r').err = s.err ||| r ||| r' := rfl

end Sys2Proof.Machine
end

