-- ==== Sys2Proof/Laws/Memory.lean ====
section
/-! SUPPORT. What the operations on the per-unit registers and the sample buffers do, and that each keeps
the buffers' canonical form. -/

namespace Sys2Proof.Machine

@[simp] theorem PerUnit.get_set_same {α : Type} (p : PerUnit α) (u : OscUnit) (x : α) :
    (p.set u x).get u = x := by
  cases u <;> rfl

theorem PerUnit.get_set_other {α : Type} (p : PerUnit α) {u v : OscUnit} (x : α) (h : v ≠ u) :
    (p.set u x).get v = p.get v := by
  cases u <;> cases v <;> first | rfl | exact absurd rfl h

theorem PerUnit.get_set {α : Type} (p : PerUnit α) (u v : OscUnit) (x : α) :
    (p.set u x).get v = if v = u then x else p.get v := by
  split
  · next h => subst h; simp
  · next h => exact PerUnit.get_set_other p x h

@[simp] theorem PerUnit.set_get_same {α : Type} (p : PerUnit α) (u : OscUnit) : p.set u (p.get u) = p := by
  cases u <;> rfl

@[simp] theorem Memory.contents_setContents_same (m : Memory) (b : BufId) (l : List F32) :
    (m.setContents b l).contents b = l := by
  cases b with
  | osc u => exact PerUnit.get_set_same _ _ _
  | ad => rfl
  | rel => rfl

theorem Memory.contents_setContents_other (m : Memory) {b c : BufId} (l : List F32) (h : c ≠ b) :
    (m.setContents b l).contents c = m.contents c := by
  cases b with
  | osc u =>
    cases c with
    | osc v =>
      exact PerUnit.get_set_other _ _ fun e => h (congrArg BufId.osc e)
    | ad => rfl
    | rel => rfl
  | ad => cases c <;> first | rfl | exact absurd rfl h
  | rel => cases c <;> first | rfl | exact absurd rfl h

@[simp] theorem Memory.setContents_epoch (m : Memory) (b : BufId) (l : List F32) :
    (m.setContents b l).epoch = m.epoch := by
  cases b <;> rfl

@[simp] theorem Memory.fill_epoch (m : Memory) (b : BufId) (vals : List F32) :
    (m.fill b vals).epoch = m.epoch :=
  Memory.setContents_epoch m b _

/-- An entry an update wrote reads as the value written. -/
theorem Memory.read_fill_lt (m : Memory) (b : BufId) (vals : List F32) (k : Nat) (h : k < vals.length) :
    (m.fill b vals).read b k = vals[k] := by
  simp [Memory.read, Memory.fill, List.getElem?_append_left h, List.getElem?_eq_getElem h]

/-- An entry beyond the ones an update wrote keeps its contents (rule R31). -/
theorem Memory.read_fill_ge (m : Memory) (b : BufId) (vals : List F32) (k : Nat) (h : vals.length ≤ k) :
    (m.fill b vals).read b k = m.read b k := by
  have hk : vals.length + (k - vals.length) = k := by omega
  simp [Memory.read, Memory.fill, List.getElem?_append_right h, List.getElem?_drop, hk]

/-- An update of one buffer leaves every entry of the others alone. -/
theorem Memory.read_fill_other (m : Memory) {b c : BufId} (vals : List F32) (k : Nat) (h : c ≠ b) :
    (m.fill b vals).read c k = m.read c k := by
  simp [Memory.read, Memory.fill, Memory.contents_setContents_other m _ h]

/-- The canonical form, buffer by buffer. -/
theorem Memory.wf_iff (m : Memory) :
    m.wf ↔ ∀ b, (m.contents b).length ≤ Config.capacity b := by
  constructor
  · rintro ⟨h1, h2, h3, h4, h5⟩ b
    cases b with
    | osc u => cases u <;> assumption
    | ad => exact h4
    | rel => exact h5
  · intro h
    exact ⟨h (.osc .osc1), h (.osc .osc2), h (.osc .lfo), h .ad, h .rel⟩

theorem Memory.contents_fill_length (m : Memory) (b : BufId) (vals : List F32) :
    ((m.fill b vals).contents b).length = max vals.length (m.contents b).length := by
  simp [Memory.fill]; omega

/-- Every update that fits its buffer keeps the canonical form. -/
theorem Memory.fill_wf (m : Memory) (b : BufId) (vals : List F32) (hm : m.wf)
    (h : vals.length ≤ Config.capacity b) : (m.fill b vals).wf := by
  rw [Memory.wf_iff] at hm ⊢
  intro c
  by_cases hc : c = b
  · subst hc
    rw [Memory.contents_fill_length]
    exact max_le h (hm c)
  · rw [Memory.fill, Memory.contents_setContents_other m _ hc]
    exact hm c

theorem State.reset_mem_wf : State.reset.mem.wf := by decide

@[simp] theorem generate_length (w : Wave) (A : F32) (n : Nat) : (generate w A n).length = n := by
  simp [generate]

@[simp] theorem adCurve_length (p : EnvParams) (z : EnvLengths) :
    (adCurve p z).length = z.attack + z.decay := by
  simp [adCurve]

@[simp] theorem releaseCurve_length (p : EnvParams) (z : EnvLengths) :
    (releaseCurve p z).length = z.release := by
  simp [releaseCurve]

theorem generate_getElem (w : Wave) (A : F32) (n k : Nat) (h : k < (generate w A n).length) :
    (generate w A n)[k] = generateEntry w A n k := by
  simp [generate]

theorem adCurve_getElem (p : EnvParams) (z : EnvLengths) (k : Nat) (h : k < (adCurve p z).length) :
    (adCurve p z)[k] = adEntry p z.attack k := by
  simp [adCurve]

theorem releaseCurve_getElem (p : EnvParams) (z : EnvLengths) (k : Nat)
    (h : k < (releaseCurve p z).length) :
    (releaseCurve p z)[k] = releaseEntry p (lastEntry p z) k := by
  simp [releaseCurve]

end Sys2Proof.Machine
end

