-- ==== Sys2Proof/Laws/Ops.lean ====
section
/-! SUPPORT. One lemma per shared operation that says once everything it can do. -/

namespace Sys2Proof.Machine

@[simp] theorem waveOfWord_waveToWord (w : Wave) : waveOfWord? (waveToWord w) = some w := by
  cases w <;> rfl

theorem waveOfWord_eq_some {x : Word} {w : Wave} (h : waveOfWord? x = some w) : x = waveToWord w := by
  unfold waveOfWord? at h
  split at h <;> simp_all <;> subst h <;> apply BitVec.eq_of_toNat_eq <;> simp_all [waveToWord]

theorem waveOfWord_eq_none_iff (x : Word) : waveOfWord? x = none ↔ 3 ≤ x.toNat := by
  unfold waveOfWord?
  split <;> simp_all
  omega

/-- Everything the checks of `OscUpdate` can answer (rule R152 steps 1 to 4). -/
theorem oscCheck_cases (u : OscUnit) (new : OscRequest) :
    (oscCheck u new = .error [.illegal] ∧ 3 ≤ new.waveWord.toNat) ∨
    (oscCheck u new = .error [.freq] ∧ oscFreqOk u new.freq = false) ∨
    (oscCheck u new = .error [.freq, .cap] ∧ oscFreqOk u new.freq = true ∧
      (oscPeriod u new.freq < 2 ∨ Config.OSC_BUF_CAP < oscPeriod u new.freq)) ∨
    ∃ w, oscCheck u new = .ok (w, oscPeriod u new.freq) ∧ new.waveWord = waveToWord w ∧
      oscFreqOk u new.freq = true ∧
      2 ≤ oscPeriod u new.freq ∧ oscPeriod u new.freq ≤ Config.OSC_BUF_CAP := by
  unfold oscCheck
  split
  · next h => exact .inl ⟨rfl, (waveOfWord_eq_none_iff _).1 h⟩
  · next w h =>
    split
    · next hf =>
      split
      · next hn => exact .inr (.inr (.inl ⟨rfl, hf, hn⟩))
      · next hn =>
        exact .inr (.inr (.inr ⟨w, rfl, waveOfWord_eq_some h, hf, by omega, by omega⟩))
    · next hf => exact .inr (.inl ⟨rfl, by simpa using hf⟩)

/-- Everything `OscUpdate` can do: reject with a code set and change nothing, or store (rule R152). -/
theorem oscUpdate_cases (u : OscUnit) (new : OscRequest) (s : State) :
    (∃ c, c ≠ [] ∧ oscCheck u new = .error c ∧ oscUpdate u new s = (c, s)) ∨
    ∃ w n, oscCheck u new = .ok (w, n) ∧ new.waveWord = waveToWord w ∧ n = oscPeriod u new.freq ∧
      2 ≤ n ∧ n ≤ Config.OSC_BUF_CAP ∧ oscUpdate u new s = ([], oscStore u new w n s) := by
  unfold oscUpdate
  obtain ⟨h, -⟩ | ⟨h, -⟩ | ⟨h, -⟩ | ⟨w, h, hw, -, h2, hc⟩ := oscCheck_cases u new
  · exact .inl ⟨_, by simp, h, by rw [h]⟩
  · exact .inl ⟨_, by simp, h, by rw [h]⟩
  · exact .inl ⟨_, by simp, h, by rw [h]⟩
  · exact .inr ⟨w, _, h, hw, rfl, h2, hc, by rw [h]⟩

/-- Everything the checks of `EnvUpdate` can answer (rule R172 steps 1 to 4). -/
theorem envCheck_cases (p : EnvParams) :
    (envCheck p = .error [.env] ∧
      (envRangesOk p = false ∨ (envLengths p).attack + (envLengths p).decay = 0)) ∨
    (envCheck p = .error [.env, .cap] ∧ envRangesOk p = true ∧
      (Config.ENV_AD_CAP < (envLengths p).attack + (envLengths p).decay ∨
        Config.ENV_REL_CAP < (envLengths p).release)) ∨
    (envCheck p = .ok (envLengths p) ∧ envRangesOk p = true ∧
      1 ≤ (envLengths p).attack + (envLengths p).decay ∧
      (envLengths p).attack + (envLengths p).decay ≤ Config.ENV_AD_CAP ∧
      (envLengths p).release ≤ Config.ENV_REL_CAP) := by
  unfold envCheck
  split
  · next hr =>
    split
    · next hc => exact .inr (.inl ⟨rfl, hr, hc⟩)
    · next hc =>
      split
      · next hz => exact .inl ⟨rfl, .inr hz⟩
      · next hz => exact .inr (.inr ⟨rfl, hr, by omega, by omega, by omega⟩)
  · next hr => exact .inl ⟨rfl, .inl (by simpa using hr)⟩

/-- Everything `EnvUpdate` can do: reject with a code set and change nothing, or store (rule R172). -/
theorem envUpdate_cases (p : EnvParams) (s : State) :
    (∃ c, c ≠ [] ∧ envCheck p = .error c ∧ envUpdate p s = (c, s)) ∨
    ∃ z, envCheck p = .ok z ∧ z = envLengths p ∧ 1 ≤ z.attack + z.decay ∧
      z.attack + z.decay ≤ Config.ENV_AD_CAP ∧ z.release ≤ Config.ENV_REL_CAP ∧
      envUpdate p s = ([], envStore p z s) := by
  unfold envUpdate
  obtain ⟨h, -⟩ | ⟨h, -⟩ | ⟨h, -, h1, h2, h3⟩ := envCheck_cases p
  · exact .inl ⟨_, by simp, h, by rw [h]⟩
  · exact .inl ⟨_, by simp, h, by rw [h]⟩
  · exact .inr ⟨_, h, rfl, h1, h2, h3, by rw [h]⟩

/-- The validation does not look at the envelope amplitude (rule R172). -/
theorem envCheck_amplitude (p : EnvParams) (a : F32) :
    envCheck { p with amplitude := a } = envCheck p := rfl

/-- A success reports nothing, a rejection its codes and the REJ bit of the part (rule R230). -/
theorem rejected_nil (rej : Word) : rejected [] rej = 0 := by simp [rejected, codesWord]

theorem rejected_of_ne_nil {c : Codes} (h : c ≠ []) (rej : Word) : rejected c rej = codesWord c ||| rej := by
  simp [rejected, h]

/-- Everything a step can do: idle, or serve the first waiting event (rules R14, R75). -/
theorem step_cases (s : State) :
    (s.inputs = [] ∧ step s = .next (idleStep s)) ∨
    ∃ e rest, s.inputs = e :: rest ∧ step s = serve e { s with inputs := rest } := by
  unfold step
  split
  · next h => exact .inl ⟨h, rfl⟩
  · next e rest h => exact .inr ⟨e, rest, h, rfl⟩

/-- Everything a host write can do to a mapped register other than CMD: store to STG, ERR or PEEKADDR, or
nothing (rule R67). -/
theorem regWrite_cases (r : Reg) (v : Word) (s : State) (h : r ≠ .cmd) :
    (∃ i : Fin 16, r = .stg i ∧ regWrite r v s = .next { s with stg := s.stg.set i v }) ∨
    (r = .err ∧ regWrite r v s = .next { s with err := s.err &&& ~~~v }) ∨
    (r = .peekAddr ∧ regWrite r v s = .next { s with peekAddr := v.setWidth 19 }) ∨
    regWrite r v s = .next s := by
  cases r with
  | stg i => exact .inl ⟨i, rfl, rfl⟩
  | err => exact .inr (.inl ⟨rfl, rfl⟩)
  | peekAddr => exact .inr (.inr (.inl ⟨rfl, rfl⟩))
  | cmd => exact absurd rfl h
  | snap _ | status | result | offset | trigOfs | relOfs | lastKey | bufSize _ | atkSize | adSize |
    relSize | underruns | peekData => exact .inr (.inr (.inr rfl))

/-- Everything PRODUCE writes: the counter, and on a shortfall ERR and UNDERRUNS (rules R200, R209). -/
theorem produceState_cases (accepted : Nat) (s : State) :
    (accepted < Config.PERIOD_BYTES ∧ produceState accepted s = s.reportUnderrun.advance) ∨
    (Config.PERIOD_BYTES ≤ accepted ∧ produceState accepted s = s.advance) := by
  unfold produceState
  split
  · next h => exact .inl ⟨h, rfl⟩
  · next h => exact .inr ⟨by omega, rfl⟩

end Sys2Proof.Machine
end

