-- ==== Sys2Proof/Laws/PerInstr.lean ====
section
/-! SUPPORT. The families of statements made per command, one lemma a constructor of `Instr`. -/

namespace Sys2Proof.Laws

/-- A number put together from three byte fields over a zero byte falls apart into them. -/
theorem fields_of_bytes {op a b : Nat} (ho : op < 2 ^ 8) (ha : a < 2 ^ 8) (hb : b < 2 ^ 8) :
    let w : Word := BitVec.ofNat 32 (op <<< 24 ||| a <<< 16 ||| b <<< 8)
    field w 31 24 = op ∧ field w 23 16 = a ∧ field w 15 8 = b ∧ field w 7 0 = 0 := by
  have h1 : a <<< 16 ||| b <<< 8 = a * 2 ^ 16 + b * 2 ^ 8 := by
    rw [Nat.shiftLeft_eq, Nat.shiftLeft_eq, Nat.mul_comm a, Nat.two_pow_add_eq_or_of_lt (by omega)]
  have h2 : op <<< 24 ||| a <<< 16 ||| b <<< 8 = op * 2 ^ 24 + (a * 2 ^ 16 + b * 2 ^ 8) := by
    rw [Nat.or_assoc, h1, Nat.shiftLeft_eq, Nat.mul_comm op, Nat.two_pow_add_eq_or_of_lt (by omega)]
  simp only [h2, field, BitVec.toNat_ofNat]
  omega

namespace EncodedFields

/-- The word of a command holds its opcode, its two operand bytes and a zero byte in the places of rules R90
and R94. -/
def Statement (i : Instr) : Prop :=
  i.wf = true →
    field (encode i) 31 24 = i.op ∧ field (encode i) 23 16 = i.operandA ∧
      field (encode i) 15 8 = i.operandB ∧ field (encode i) 7 0 = 0

theorem of_bounds {i : Instr} (ho : i.op < 2 ^ 8) (ha : i.operandA < 2 ^ 8) (hb : i.operandB < 2 ^ 8) :
    Statement i := fun _ => fields_of_bytes ho ha hb

theorem nop : Statement .nop := of_bounds (by decide) (by decide) (by decide)

theorem start : Statement .start := of_bounds (by decide) (by decide) (by decide)

theorem oscUpdate (u : OscUnit) : Statement (.oscUpdate u) := by
  cases u <;> exact of_bounds (by decide) (by decide) (by decide)

theorem oscSetAmp (u : OscUnit) : Statement (.oscSetAmp u) := by
  cases u <;> exact of_bounds (by decide) (by decide) (by decide)

theorem oscSetFreq (u : OscUnit) : Statement (.oscSetFreq u) := by
  cases u <;> exact of_bounds (by decide) (by decide) (by decide)

theorem oscSetWave (u : OscUnit) : Statement (.oscSetWave u) := by
  cases u <;> exact of_bounds (by decide) (by decide) (by decide)

theorem envUpdate : Statement .envUpdate := of_bounds (by decide) (by decide) (by decide)

theorem setLfoEn (flag : Bool) : Statement (.setLfoEn flag) := by
  cases flag <;> exact of_bounds (by decide) (by decide) (by decide)

theorem setSyncEn (flag : Bool) : Statement (.setSyncEn flag) := by
  cases flag <;> exact of_bounds (by decide) (by decide) (by decide)

theorem setNoise : Statement .setNoise := of_bounds (by decide) (by decide) (by decide)

theorem applyFull : Statement .applyFull := of_bounds (by decide) (by decide) (by decide)

theorem snapshot : Statement .snapshot := of_bounds (by decide) (by decide) (by decide)

theorem keyPress (key vel : Nat) : Statement (.keyPress key vel) := by
  intro h
  have hkv : key < 128 ∧ vel < 128 := by simpa [Instr.wf] using h
  exact fields_of_bytes (show 0x50 < 2 ^ 8 by decide) (show key < 2 ^ 8 by omega) (show vel < 2 ^ 8 by omega)

theorem keyRelease (key : Nat) : Statement (.keyRelease key) := by
  intro h
  have hk : key < 128 := by simpa [Instr.wf] using h
  exact fields_of_bytes (show 0x51 < 2 ^ 8 by decide) (show key < 2 ^ 8 by omega) (show 0 < 2 ^ 8 by decide)

end EncodedFields

end Sys2Proof.Laws
end

