-- ==== Sys2Proof/Laws/Updates.lean ====
section
/-! SUPPORT. What a successful update stores, what an update never touches, and that an update of one part
depends on that part alone. -/

namespace Sys2Proof.Machine

theorem SameOsc.refl (u : OscUnit) (s : State) : SameOsc u s s := ⟨rfl, rfl, fun _ => rfl⟩

theorem SameOsc.trans {u : OscUnit} {s t v : State} (a : SameOsc u s t) (b : SameOsc u t v) :
    SameOsc u s v :=
  ⟨a.params.trans b.params, a.size.trans b.size, fun k => (a.buf k).trans (b.buf k)⟩

theorem SameEnv.refl (s : State) : SameEnv s s := ⟨rfl, rfl, rfl, rfl, fun _ => rfl, fun _ => rfl⟩

theorem SameEnv.trans {s t v : State} (a : SameEnv s t) (b : SameEnv t v) : SameEnv s v :=
  ⟨a.params.trans b.params, a.atk_size.trans b.atk_size, a.ad_size.trans b.ad_size,
    a.rel_size.trans b.rel_size, fun k => (a.ad_buf k).trans (b.ad_buf k),
    fun k => (a.rel_buf k).trans (b.rel_buf k)⟩

theorem SameRest.refl (s : State) : SameRest s s := by constructor <;> rfl

theorem SameRest.trans {s t v : State} (a : SameRest s t) (b : SameRest t v) : SameRest s v := by
  constructor
  · exact a.stg.trans b.stg
  · exact a.snap.trans b.snap
  · exact a.trig_ofs.trans b.trig_ofs
  · exact a.rel_ofs.trans b.rel_ofs
  · exact a.cur_ofs.trans b.cur_ofs
  · exact a.last_key.trans b.last_key
  · exact a.run.trans b.run
  · exact a.underruns.trans b.underruns
  · exact a.peek_addr.trans b.peek_addr
  · exact a.inputs.trans b.inputs
  · exact a.label.trans b.label

/-- Reporting touches RESULT and ERR alone. -/
theorem SameOsc.report {u : OscUnit} {s t : State} (h : SameOsc u s t) (r : Word) :
    SameOsc u (s.report r) t := ⟨h.params, h.size, h.buf⟩

theorem SameEnv.report {s t : State} (h : SameEnv s t) (r : Word) : SameEnv (s.report r) t :=
  ⟨h.params, h.atk_size, h.ad_size, h.rel_size, h.ad_buf, h.rel_buf⟩

theorem SameRest.report {s t : State} (h : SameRest s t) (r : Word) : SameRest (s.report r) t :=
  ⟨h.stg, h.snap, h.trig_ofs, h.rel_ofs, h.cur_ofs, h.last_key, h.run, h.underruns, h.peek_addr, h.inputs,
    h.label⟩

/-! ### What step 5 of `OscUpdate` stores -/

theorem oscStore_read_lt (u : OscUnit) (new : OscRequest) (w : Wave) {n k : Nat} (s : State) (h : k < n) :
    (oscStore u new w n s).mem.read (.osc u) k = generateEntry w new.amp n k := by
  rw [oscStore_mem, Memory.read_fill_lt _ _ _ _ (by simpa using h), generate_getElem]

theorem oscStore_read_ge (u : OscUnit) (new : OscRequest) (w : Wave) {n k : Nat} (s : State) (h : n ≤ k) :
    (oscStore u new w n s).mem.read (.osc u) k = s.mem.read (.osc u) k := by
  rw [oscStore_mem, Memory.read_fill_ge _ _ _ _ (by simpa using h)]

theorem oscStore_read_other (u : OscUnit) (new : OscRequest) (w : Wave) (n k : Nat) (s : State)
    {b : BufId} (h : b ≠ .osc u) : (oscStore u new w n s).mem.read b k = s.mem.read b k := by
  rw [oscStore_mem, Memory.read_fill_other _ _ _ h]

/-! ### What step 5 of `EnvUpdate` stores -/

theorem envStore_read_ad_lt (p : EnvParams) (z : EnvLengths) {k : Nat} (s : State)
    (h : k < z.attack + z.decay) : (envStore p z s).mem.read .ad k = adEntry p z.attack k := by
  rw [envStore_mem, Memory.read_fill_other _ _ _ (by simp),
    Memory.read_fill_lt _ _ _ _ (by simpa using h), adCurve_getElem]

theorem envStore_read_ad_ge (p : EnvParams) (z : EnvLengths) {k : Nat} (s : State)
    (h : z.attack + z.decay ≤ k) : (envStore p z s).mem.read .ad k = s.mem.read .ad k := by
  rw [envStore_mem, Memory.read_fill_other _ _ _ (by simp),
    Memory.read_fill_ge _ _ _ _ (by simpa using h)]

theorem envStore_read_rel_lt (p : EnvParams) (z : EnvLengths) {k : Nat} (s : State) (h : k < z.release) :
    (envStore p z s).mem.read .rel k = releaseEntry p (lastEntry p z) k := by
  rw [envStore_mem, Memory.read_fill_lt _ _ _ _ (by simpa using h), releaseCurve_getElem]

theorem envStore_read_rel_ge (p : EnvParams) (z : EnvLengths) {k : Nat} (s : State) (h : z.release ≤ k) :
    (envStore p z s).mem.read .rel k = s.mem.read .rel k := by
  rw [envStore_mem, Memory.read_fill_ge _ _ _ _ (by simpa using h),
    Memory.read_fill_other _ _ _ (by simp)]

theorem envStore_read_osc (p : EnvParams) (z : EnvLengths) (u : OscUnit) (k : Nat) (s : State) :
    (envStore p z s).mem.read (.osc u) k = s.mem.read (.osc u) k := by
  rw [envStore_mem, Memory.read_fill_other _ _ _ (by simp), Memory.read_fill_other _ _ _ (by simp)]

/-! ### Frames -/

/-- Another oscillator is left alone by `OscUpdate(u, new)`. -/
theorem oscUpdate_sameOsc {u v : OscUnit} (new : OscRequest) (s : State) (h : v ≠ u) :
    SameOsc v (oscUpdate u new s).2 s := by
  obtain ⟨c, -, -, e⟩ | ⟨w, n, -, -, -, -, -, e⟩ := oscUpdate_cases u new s <;> rw [e]
  · exact SameOsc.refl v s
  · exact ⟨PerUnit.get_set_other _ _ h, PerUnit.get_set_other _ _ h,
      fun k => oscStore_read_other u new w n k s (by simpa using h)⟩

/-- The envelope is left alone by `OscUpdate`. -/
theorem oscUpdate_sameEnv (u : OscUnit) (new : OscRequest) (s : State) :
    SameEnv (oscUpdate u new s).2 s := by
  obtain ⟨c, -, -, e⟩ | ⟨w, n, -, -, -, -, -, e⟩ := oscUpdate_cases u new s <;> rw [e]
  · exact SameEnv.refl s
  · exact ⟨rfl, rfl, rfl, rfl, fun k => oscStore_read_other u new w n k s (by simp),
      fun k => oscStore_read_other u new w n k s (by simp)⟩

/-- Everything that is no oscillator and no envelope is left alone by `OscUpdate`. -/
theorem oscUpdate_rest (u : OscUnit) (new : OscRequest) (s : State) :
    SameRest (oscUpdate u new s).2 s ∧ (oscUpdate u new s).2.act.synth = s.act.synth ∧
      (oscUpdate u new s).2.result = s.result ∧ (oscUpdate u new s).2.err = s.err ∧
      (oscUpdate u new s).2.mem.epoch = s.mem.epoch := by
  obtain ⟨c, -, -, e⟩ | ⟨w, n, -, -, -, -, -, e⟩ := oscUpdate_cases u new s <;> rw [e]
  · exact ⟨SameRest.refl s, rfl, rfl, rfl, rfl⟩
  · exact ⟨by constructor <;> rfl, rfl, rfl, rfl, by simp⟩

/-- An oscillator is left alone by `EnvUpdate`. -/
theorem envUpdate_sameOsc (p : EnvParams) (u : OscUnit) (s : State) : SameOsc u (envUpdate p s).2 s := by
  obtain ⟨c, -, -, e⟩ | ⟨z, -, -, -, -, -, e⟩ := envUpdate_cases p s <;> rw [e]
  · exact SameOsc.refl u s
  · exact ⟨rfl, rfl, fun k => envStore_read_osc p z u k s⟩

/-- Everything that is no oscillator and no envelope is left alone by `EnvUpdate`. -/
theorem envUpdate_rest (p : EnvParams) (s : State) :
    SameRest (envUpdate p s).2 s ∧ (envUpdate p s).2.act.synth = s.act.synth ∧
      (envUpdate p s).2.result = s.result ∧ (envUpdate p s).2.err = s.err ∧
      (envUpdate p s).2.mem.epoch = s.mem.epoch := by
  obtain ⟨c, -, -, e⟩ | ⟨z, -, -, -, -, -, e⟩ := envUpdate_cases p s <;> rw [e]
  · exact ⟨SameRest.refl s, rfl, rfl, rfl, rfl⟩
  · exact ⟨by constructor <;> rfl, rfl, rfl, rfl, by simp⟩

/-- Every update keeps the buffers' canonical form. -/
theorem oscUpdate_mem_wf (u : OscUnit) (new : OscRequest) (s : State) (h : s.mem.wf) :
    (oscUpdate u new s).2.mem.wf := by
  obtain ⟨c, -, -, e⟩ | ⟨w, n, -, -, -, -, hn, e⟩ := oscUpdate_cases u new s <;> rw [e]
  · exact h
  · exact Memory.fill_wf _ _ _ h (by rw [generate_length]; exact hn)

theorem envUpdate_mem_wf (p : EnvParams) (s : State) (h : s.mem.wf) : (envUpdate p s).2.mem.wf := by
  obtain ⟨c, -, -, e⟩ | ⟨z, -, -, -, ha, hr, e⟩ := envUpdate_cases p s <;> rw [e]
  · exact h
  · refine Memory.fill_wf _ _ _ (Memory.fill_wf _ _ _ h ?_) ?_
    · rw [adCurve_length]; exact ha
    · rw [releaseCurve_length]; exact hr

/-! ### An update depends on its own part alone -/

/-- The codes of an update do not depend on the state: the checks read the new record only. -/
theorem oscUpdate_codes_congr (u : OscUnit) (new : OscRequest) (s t : State) :
    (oscUpdate u new s).1 = (oscUpdate u new t).1 := by
  unfold oscUpdate
  split <;> rfl

theorem envUpdate_codes_congr (p : EnvParams) (s t : State) : (envUpdate p s).1 = (envUpdate p t).1 := by
  unfold envUpdate
  split <;> rfl

/-- What `OscUpdate(u, new)` leaves in unit `u` depends on that unit alone. -/
theorem oscUpdate_congr (u : OscUnit) (new : OscRequest) {s t : State} (h : SameOsc u s t) :
    SameOsc u (oscUpdate u new s).2 (oscUpdate u new t).2 := by
  obtain ⟨c, -, hc, e⟩ | ⟨w, n, hc, -, -, -, -, e⟩ := oscUpdate_cases u new s
  · rw [e]
    simpa only [oscUpdate, hc] using h
  · rw [e]
    simp only [oscUpdate, hc]
    refine ⟨by simp, by simp, fun k => ?_⟩
    rcases Nat.lt_or_ge k n with hk | hk
    · rw [oscStore_read_lt u new w s hk, oscStore_read_lt u new w t hk]
    · rw [oscStore_read_ge u new w s hk, oscStore_read_ge u new w t hk, h.buf]

/-- What `EnvUpdate(new)` leaves in the envelope depends on the envelope alone. -/
theorem envUpdate_congr (p : EnvParams) {s t : State} (h : SameEnv s t) :
    SameEnv (envUpdate p s).2 (envUpdate p t).2 := by
  obtain ⟨c, -, hc, e⟩ | ⟨z, hc, -, -, -, -, e⟩ := envUpdate_cases p s
  · rw [e]
    simpa only [envUpdate, hc] using h
  · rw [e]
    simp only [envUpdate, hc]
    refine ⟨rfl, rfl, rfl, rfl, fun k => ?_, fun k => ?_⟩
    · rcases Nat.lt_or_ge k (z.attack + z.decay) with hk | hk
      · rw [envStore_read_ad_lt p z s hk, envStore_read_ad_lt p z t hk]
      · rw [envStore_read_ad_ge p z s hk, envStore_read_ad_ge p z t hk, h.ad_buf]
    · rcases Nat.lt_or_ge k z.release with hk | hk
      · rw [envStore_read_rel_lt p z s hk, envStore_read_rel_lt p z t hk]
      · rw [envStore_read_rel_ge p z s hk, envStore_read_rel_ge p z t hk, h.rel_buf]

end Sys2Proof.Machine
end

