-- ==== Sys2Proof/Tests/Slice0.lean ====
section
/-! SUPPORT. The model's own tests: expected values are the spec's (95_test_vectors.md and the worked
examples of the rules); and for every statement with hypotheses a state and operands that meet them. -/

namespace Sys2Proof.Machine.Tests

set_option maxRecDepth 4000

/-! ### Well-formedness, decoding, parameters -/

theorem test_wf_refuses_key : Instr.wf (.keyPress 128 0) = false := by decide
theorem test_wf_refuses_vel : Instr.wf (.keyPress 0 128) = false := by decide
theorem test_wf_refuses_release_key : Instr.wf (.keyRelease 128) = false := by decide
theorem test_wf_accepts_largest : Instr.wf (.keyPress 127 127) = true := by decide

/-- Formats Z: the words of rules R221, R222, R180, R225, R226, R227. -/
theorem test_decode_nop : decodeWord 0x00000000 = .ok .nop := by decide
theorem test_decode_start : decodeWord 0x01000000 = .ok .start := by decide
theorem test_decode_envUpdate : decodeWord 0x20000000 = .ok .envUpdate := by decide
theorem test_decode_setNoise : decodeWord 0x32000000 = .ok .setNoise := by decide
theorem test_decode_applyFull : decodeWord 0x40000000 = .ok .applyFull := by decide
theorem test_decode_snapshot : decodeWord 0x41000000 = .ok .snapshot := by decide

/-- Format U, bit by bit (rules R91, R94): op, six zeros, the unit in bits 17:16, zeros. -/
theorem test_decode_oscUpdate : decodeWord 0b00010000000000010000000000000000 = .ok (.oscUpdate .osc2) := by
  decide
theorem test_decode_oscSetAmp : decodeWord 0b00010001000000000000000000000000 = .ok (.oscSetAmp .osc1) := by
  decide
theorem test_decode_oscSetFreq : decodeWord 0b00010010000000100000000000000000 = .ok (.oscSetFreq .lfo) := by
  decide
theorem test_decode_oscSetWave : decodeWord 0b00010011000000010000000000000000 = .ok (.oscSetWave .osc2) := by
  decide

/-- Format F, bit by bit: the flag in bit 16. -/
theorem test_decode_setLfoEn : decodeWord 0b00110000000000010000000000000000 = .ok (.setLfoEn true) := by
  decide
theorem test_decode_setSyncEn : decodeWord 0b00110001000000000000000000000000 = .ok (.setSyncEn false) := by
  decide

/-- Formats KV and K, bit by bit: the key in bits 22:16, the velocity in bits 14:8. -/
theorem test_decode_keyPress : decodeWord 0b01010000010001010111111100000000 = .ok (.keyPress 69 127) := by
  decide
theorem test_decode_keyRelease : decodeWord 0b01010001010001100000000000000000 = .ok (.keyRelease 70) := by
  decide

/-- Illegal words of rule R95: a reserved opcode, must-be-zero bits of each format, `unit = 3`. -/
theorem test_decode_rejects :
    decodeWord 0x02000000 = .error .reservedOpcode ∧ decodeWord 0xFF000000 = .error .reservedOpcode ∧
    decodeWord 0x01000001 = .error .mustBeZero ∧ decodeWord 0x10040000 = .error .mustBeZero ∧
    decodeWord 0x30020000 = .error .mustBeZero ∧ decodeWord 0x50800000 = .error .mustBeZero ∧
    decodeWord 0x51000100 = .error .mustBeZero ∧ decodeWord 0x13030000 = .error .reservedUnit := by decide

/-- The bytes of a command, low byte first (rule R62); three bytes are no command. -/
theorem test_decode_bytes :
    decodeBytes [0x00, 0x7F, 0x45, 0x50, 0xAA] = .ok (.keyPress 69 127, [0xAA]) ∧
    decodeBytes [0x00, 0x7F, 0x45] = .error .truncated := by decide

/-- The constraints rule R8 puts on the parameters. -/
theorem test_parameters :
    20 ≤ Config.FS ∧ Config.FS < 2 ^ 24 ∧ 1 ≤ Config.DS .lfo ∧ 20 ≤ Config.FS / Config.DS .lfo ∧
    1 ≤ Config.DS_ENV ∧ 2 ≤ Config.OSC_BUF_CAP ∧ Config.FS / 10 ≤ Config.OSC_BUF_CAP ∧
    1 ≤ Config.ENV_AD_CAP ∧ Config.ENV_AD_CAP < 2 ^ 16 ∧ Config.ENV_REL_CAP < 2 ^ 16 ∧
    1 ≤ Config.PERIOD_SAMPLES ∧ Config.PERIOD_SAMPLES < 2 ^ 16 ∧ 1 ≤ Config.NCH ∧
    Config.PERIOD_BYTES = 1764 := by decide

/-- The derived constants of rule R129. -/
theorem test_constants :
    fMax = 0x46AC4400 ∧ effRate .osc1 = 0x472C4400 ∧ effRate .osc2 = 0x472C4400 ∧
    effRate .lfo = 0x43DC8000 := by decide

/-! ### Arithmetic (95_test_vectors.md section 2.1) -/

theorem test_f2nRound :
    f2nRound 0x40200000 = 3 ∧ f2nRound 0x42C90000 = 101 ∧ f2nRound 0x3EFAE148 = 0 ∧
    f2nRound 0xC0400000 = 0 ∧ f2nRound 0x7FC00000 = 0 ∧ f2nRound 0x501502F9 = 4294967295 ∧
    f2nRound 0x4F7FFFFF = 4294967040 := by decide

theorem test_f2nTrunc :
    f2nTrunc 0x42306666 = 44 ∧ f2nTrunc 0x3F7F251C = 0 ∧ f2nTrunc 0x3F800000 = 1 ∧
    f2nTrunc 0x80000000 = 0 ∧ f2nTrunc 0x7F800000 = 4294967295 := by decide

theorem test_f2i16 :
    (f2i16 0xBF7FBE77).toInt = 0 ∧ (f2i16 0xBFC00000).toInt = -1 ∧ (f2i16 0x46FFFFCD).toInt = 32767 ∧
    (f2i16 0x47000000).toInt = 32767 ∧ (f2i16 0xC70000E6).toInt = -32768 ∧
    (f2i16 0xFF800000).toInt = -32768 ∧ (f2i16 0xFFC00000).toInt = 0 := by decide

theorem test_division :
    fdiv 0x472C4400 0x43DC0000 = 0x42C8745D ∧ fdiv 0x472C4400 0x4382D013 = 0x43288FBE ∧
    fdiv (u2f 64) c127 = 0x3F010204 ∧ fdiv (u2f 126) c127 = 0x3F7DFBF8 := by decide

theorem test_multiplication :
    fmul 0x3DCCCCCD 0x42C80000 = 0x41200000 ∧ fmul 0x7F61B1E6 0x472C4400 = 0x7F800000 := by decide

/-- The mix of rule R211. -/
theorem test_sum_of_mix :
    fadd 0x4405F4EA 0xC3B0C6D5 = 0x433645FE ∧ fmul (fmul 0x3D86AFC8 c1) 0x433645FE = 0x413FCB96 := by decide

/-- The exponential of rule R173 and the sines of section 2.2. -/
theorem test_exponential : fexp (fneg 0x3D8B51D9) = 0x3F6F2A07 := by decide
theorem test_sine :
    fmul 0x447A0000 (sinTurn 1 100) = 0x427B297E ∧ fmul 0x447A0000 (sinTurn 75 100) = 0xC47A0000 ∧
    sinTurn 1 3 = 0x3F5DB3D7 ∧ sinTurn 2 3 = 0xBF5DB3D7 ∧ sinTurn 1 2 = 0 := by decide
theorem test_sawtooth : sawtoothEntry 0x447A0000 100 99 = 0x44978FEB := by decide
theorem test_square : squareEntry c1 5 2 = 0x3F3504F3 ∧ squareEntry c1 5 3 = 0xBF3504F3 := by decide
theorem test_envelope_samples : envSamples 0x3C23D70A = 4 ∧ envSamples 0x41200000 = 4410 := by decide

/-! ### One step each -/

/-- What serving one event leaves. -/
def after (e : Event) (s : State) : State :=
  match step { s with inputs := [e] } with
  | .next t => t
  | .fault _ => s
  | .refused _ => s

/-- A write of a command word. -/
def command (w : Word) (s : State) : State := after (.write .word 0x080 w) s

/-- Reset, with words staged in STG from an index on. -/
def staged (at_ : Nat) (ws : List Word) : State :=
  { State.reset with
    stg := Vector.ofFn fun i => if at_ ≤ i.val then ws.getD (i.val - at_) 0 else 0 }

/-- The staged record of rule R155: 1000.0, 440.0, Sine. -/
def stagedOsc : State := staged 0 [0x447A0000, 0x43DC0000, 0]

/-- The state of rule R155 after its OSC_UPDATE, with another staged record. -/
def tuned (stg : List Word) : State :=
  { oscStore .osc1 { amp := 0x447A0000, freq := 0x43DC0000, waveWord := 0 } .sine 100 State.reset with
    stg := (staged 0 stg).stg }

/-- Scenario B of rule R180, staged. -/
def stagedEnv : State := staged 9 [0x3DCCCCCD, 0x3DCCCCCD, 0x3F800000, 0x3F000000, 0x3F800000]

theorem test_nop_clears_result :
    let t := command 0x00000000 { State.reset with result := 0x101, err := 0x101 }
    t.result = 0 ∧ t.err = 0x101 := by decide

theorem test_start_status : statusWord (command 0x01000000 State.reset) = 0x00000001 := by decide

/-- Rule R155. -/
theorem test_oscUpdate :
    let t := command 0x10000000 stagedOsc
    t.result = 0 ∧ t.oscSize.osc1 = 100 ∧ t.mem.read (.osc .osc1) 25 = 0x447A0000 := by decide

theorem test_oscUpdate_lfo_rejects :
    (command 0x10020000 (staged 6 [0, 0x3DCCCCCC, 0])).result = 0x401 := by decide

/-- Rule R156. -/
theorem test_oscSetAmp :
    let t := command 0x11000000 (tuned [0x44FA0000])
    t.result = 0 ∧ t.oscSize.osc1 = 100 ∧ t.mem.read (.osc .osc1) 25 = 0x44FA0000 := by decide

/-- Rule R157. -/
theorem test_oscSetFreq_rejects :
    let t := command 0x12000000 (tuned [0, 0x40A00000])
    t.result = 0x101 ∧ t.oscSize.osc1 = 100 ∧ t.act.osc.osc1.frequency = 0x43DC0000 := by decide

/-- Rule R158. -/
theorem test_oscSetWave :
    let t := command 0x13000000 (tuned [0, 0, 2])
    t.mem.read (.osc .osc1) 0 = 0x4430C6D5 ∧ t.mem.read (.osc .osc1) 50 = 0xC430C6D5 := by decide

theorem test_oscSetWave_reserved : (command 0x13000000 (tuned [0, 0, 3])).result = 0x110 := by decide

/-- Rule R180. -/
theorem test_envUpdate_sizes :
    let t := command 0x20000000 stagedEnv
    t.result = 0 ∧ t.atkSize = 44 ∧ t.adSize = 88 ∧ t.relSize = 441 := by decide

theorem test_envUpdate_entries :
    let t := command 0x20000000 stagedEnv
    t.mem.read .ad 1 = 0x3D86AFC8 ∧ t.mem.read .ad 87 = 0x3F001FE1 ∧ t.mem.read .rel 1 = 0x3EFE8304 := by
  decide

theorem test_setLfoEn : (command 0x30010000 State.reset).act.synth.lfoEnabled = true := by decide
theorem test_setSyncEn : (command 0x31010000 State.reset).act.synth.osc2SyncEnabled = true := by decide

/-- Rule R225. -/
theorem test_setNoise :
    (command 0x32000000 (staged 15 [0x3E800000])).act.synth.noiseAmplitude = 0x3E800000 := by decide

/-- Rule R226: the reset contents of STG reject the four validated parts. -/
theorem test_applyFull_reset : (command 0x40000000 State.reset).result = 0xF03 := by decide

/-- Rule R227. -/
theorem test_snapshot :
    let t := command 0x41000000 (tuned [])
    t.snap[0] = 0x447A0000 ∧ t.snap[1] = 0x43DC0000 ∧ t.snap[2] = 0 := by decide

/-- Rule R291. -/
theorem test_keyPress_reset :
    let t := command 0x50457F00 State.reset
    t.result = 0x802 ∧ t.lastKey = 69 ∧ t.trigOfs = 0 ∧ t.oscSize.osc1 = 100 := by decide

/-- Rule R228: the velocity is assigned, not multiplied. -/
theorem test_keyPress_velocity :
    (command 0x50454000 (command 0x20000000 stagedEnv)).act.env.amplitude = 0x3F010204 := by decide

/-- Rule R229. -/
theorem test_keyRelease :
    let s := { State.reset with lastKey := 69, curOfs := 1323 }
    (command 0x51460000 s).relOfs = 0xFFFFFFFF ∧ (command 0x51450000 s).relOfs = 0x0000052B := by decide

/-- Rule R209, with the counter of rule R208 at its wrap. -/
theorem test_produce_underrun :
    let t := after (.tick ⟨1763, by decide⟩) { State.reset with run := true, curOfs := 0xFFFFFFFF }
    t.err = 0x008 ∧ t.underruns = 1 ∧ t.curOfs = 440 := by decide

/-- Rule R211, sample 100. -/
theorem test_mix :
    let s := { envStore { attack := 0x3DCCCCCD, decay := 0x3DCCCCCD, release := 0x3F800000,
                          sustain := 0x3F000000, amplitude := 0x3F800000 } ⟨44, 44, 441⟩
        (oscStore .osc2 { amp := 0x43FA0000, freq := 0x445C0000, waveWord := 2 } .square 50 (tuned [])) with
      trigOfs := 441, curOfs := 441 }
    periodSample s 100 = 11 := by decide

/-- Rule R241. -/
theorem test_clear_err :
    (after (.write .word 0x08C 0x008) { State.reset with err := 0x109 }).err = 0x101 := by decide

/-! ### A configured state that meets the invariant -/

/-- Three Square units of size 2 and the envelope of sizes 0, 1, 0 (section 2.4), by hand. -/
def playing : State :=
  let osc := fun f => ({ amplitude := 0x3F800000, frequency := f, waveform := .square } : OscParams)
  { State.reset with
    act :=
      { osc := { osc1 := osc 0x46AC4400, osc2 := osc 0x46AC4400, lfo := osc 0x435C8000 }
        env := { attack := 0x3A83126F, decay := 0x3B449BA6, release := 0x3A83126F
                 sustain := 0x3F000000, amplitude := 0x3F800000 }
        synth := State.reset.act.synth }
    oscSize := { osc1 := 2, osc2 := 2, lfo := 2 }
    adSize := 1
    mem :=
      { State.reset.mem with
        oscBuf := { osc1 := [0x3F3504F3, 0xBF3504F3], osc2 := [0x3F3504F3, 0xBF3504F3]
                    lfo := [0x3F3504F3, 0xBF3504F3] }
        adBuf := [0x3F733333] }
    run := true
    stg := (staged 0 [0x40000000, 0x42C80000, 1, 0x40000000, 0x42C80000, 1, 0x40000000, 0x41200000, 1]).stg }

theorem playing_osc_check (u : OscUnit) :
    oscCheck u (playing.actOsc u) = .ok ((playing.act.osc.get u).waveform, playing.oscSize.get u) := by
  cases u <;> decide

theorem playing_osc_buf (u : OscUnit) : ∀ k < 2, playing.mem.read (.osc u) k =
    generateEntry (playing.act.osc.get u).waveform (playing.act.osc.get u).amplitude 2 k := by
  cases u <;> decide

theorem playing_osc_size (u : OscUnit) : playing.oscSize.get u = 2 := by cases u <;> rfl

theorem playing_env : EnvValid playing := by
  refine ⟨by decide, ?_, ?_⟩
  · show ∀ k < 1, _
    decide
  · intro k hk
    exact absurd hk (Nat.not_lt_zero k)

/-- The invariant is met by a state in which every part is configured and the engine runs. -/
theorem playing_inv : Inv playing where
  mem_wf := by decide
  osc_size u := .inr (by rw [playing_osc_size]; decide)
  osc_unconfigured u h := by rw [playing_osc_size] at h; exact absurd h (by decide)
  osc_valid u _ := ⟨playing_osc_check u, by rw [playing_osc_size]; exact playing_osc_buf u⟩
  ad_size := by decide
  atk_size := by decide
  rel_size := by decide
  env_unconfigured h := absurd h (by decide)
  env_valid _ := playing_env
  last_key := by decide
  snap_legal := by unfold SnapLegal; decide
  result_bits := by decide
  err_bits := by decide

/-! ### Witnesses: for every statement with hypotheses, a state and operands that meet them -/

theorem witness_DecodeEncodeRoundTrip :
    Instr.wf (.keyPress 127 127) = true ∧ Instr.wf (.keyRelease 0) = true ∧ Instr.wf (.oscUpdate .lfo) = true := by
  decide

theorem witness_EncodeDecodeRoundTrip : decodeWord 0x507F7F00 = .ok (.keyPress 127 127) := by decide

/-- Both sides of the equivalence: a word of the row, and one only `unit = 3` keeps out. -/
theorem witness_WordSpellsRowExactly :
    (0x10020000 &&& (Instr.oscUpdate .osc1).tableMask = (Instr.oscUpdate .osc1).tableMatch ∧
      field 0x10020000 17 16 ≠ 3) ∧
    (0x10030000 &&& (Instr.oscUpdate .osc1).tableMask = (Instr.oscUpdate .osc1).tableMatch ∧
      field 0x10030000 17 16 = 3) := by decide

theorem witness_StepRunsDecodedCommand : decodeWord 0x13020000 = .ok (.oscSetWave .lfo) := by decide

theorem witness_IllegalWordReported :
    decodeWord 0x52000000 = .error .reservedOpcode ∧ decodeWord 0x00000001 = .error .mustBeZero ∧
    decodeWord 0x10030000 = .error .reservedUnit := by decide

theorem witness_RegisterWritesLeave :
    decodeWord 0x41000000 = .ok .snapshot ∧ decodeWord 0x42000000 = .error .reservedOpcode := by decide

/-- The premise of the last clause of `SynthCommandsWriteTheirField`: SET_NOISE completes. -/
theorem witness_SynthCommandsWriteTheirField : ∃ t, exec .setNoise State.reset = .next t := ⟨_, rfl⟩

/-- Each of the three kinds of bad access, the last at its lowest and highest offset. -/
theorem witness_BadAccessChangesNothing :
    AccessWidth.byte ≠ .word ∧ AccessWidth.halfword ≠ .word ∧ (0x001 : BitVec 12).toNat % 4 ≠ 0 ∧
    0x0C4 ≤ (0x0C4 : BitVec 12).toNat ∧ 0x0C4 ≤ (0xFFF : BitVec 12).toNat := by decide

/-- The clauses of the PEEK window at the ends of their ranges: the last entry of the first and of the last
buffer, the first index beyond, the first `sel` that names none. -/
theorem witness_PeekWindow :
    (0x00001139 : Word).toNat / 2 ^ 16 % 8 = 0 ∧ (0x00001139 : Word).toNat % 2 ^ 16 = 4409 ∧
    (0x00041139 : Word).toNat / 2 ^ 16 % 8 = 4 ∧ (0x0004113A : Word).toNat % 2 ^ 16 = 4410 ∧
    (0xFFFD0000 : Word).toNat / 2 ^ 16 % 8 = 5 := by decide

/-- The outcomes of those clauses, and of each buffer's. -/
theorem witness_PeekWindow_outcomes :
    regRead .peekData { playing with peekAddr := 0x00001 } = 0xBF3504F3 ∧
    regRead .peekData { playing with peekAddr := 0x10000 } = 0x3F3504F3 ∧
    regRead .peekData { playing with peekAddr := 0x20001 } = 0xBF3504F3 ∧
    regRead .peekData { playing with peekAddr := 0x30000 } = 0x3F733333 ∧
    regRead .peekData { playing with peekAddr := 0x4113A } = 0 ∧
    regRead .peekData { playing with peekAddr := 0x50000 } = 0 := by decide

theorem witness_GenerateFollowsFormulas : 0 < 2 ∧ 4409 < 4410 := by decide

/-- A reserved waveform; a rejected and an accepted frequency of a legal record. -/
theorem witness_OscUpdateProcedure :
    3 ≤ (3 : Word).toNat ∧ (2 : Word).toNat < 3 ∧
    ¬(fle fMin (fmul 0x411FFFFF (u2f (Config.DS .osc1))) = true ∧
      fle (fmul 0x411FFFFF (u2f (Config.DS .osc1))) fMax = true) ∧
    (2 : Word) = waveToWord .square ∧ fle fMin (fmul 0x41200000 (u2f (Config.DS .osc1))) = true ∧
    fle (fmul 0x41200000 (u2f (Config.DS .osc1))) fMax = true := by decide

/-- The clauses on accepted staged records, unit by unit. -/
theorem witness_OscCommandsSucceed_staged (u : OscUnit) :
    playing.stg.toList.getD (3 * u.index + 2) 0 = waveToWord .sawtooth ∧
    oscFreqOk u (playing.stg.toList.getD (3 * u.index + 1) 0) = true := by
  cases u <;> decide

/-- The clauses on a configured and on an unconfigured unit. -/
theorem witness_OscCommandsSucceed_configured (u : OscUnit) :
    Inv playing ∧ playing.oscSize.get u ≠ 0 ∧
    playing.stg.toList.getD (3 * u.index + 2) 0 = waveToWord .sawtooth :=
  ⟨playing_inv, by cases u <;> decide, by cases u <;> decide⟩

/-- `playing` with OSC2 as reset leaves it meets the invariant too. -/
theorem witness_OscCommandsSucceed_unconfigured :
    Inv { playing with
      act := { playing.act with osc := { playing.act.osc with osc2 := OscParams.reset } }
      oscSize := { playing.oscSize with osc2 := 0 } } where
  mem_wf := by decide
  osc_size u := by cases u <;> decide
  osc_unconfigured u h := by
    cases u with
    | osc1 => exact absurd h (by decide)
    | osc2 => rfl
    | lfo => exact absurd h (by decide)
  osc_valid u h := by
    cases u with
    | osc1 => exact ⟨playing_osc_check .osc1, playing_osc_buf .osc1⟩
    | osc2 => exact absurd rfl h
    | lfo => exact ⟨playing_osc_check .lfo, playing_osc_buf .lfo⟩
  ad_size := by decide
  atk_size := by decide
  rel_size := by decide
  env_unconfigured h := absurd h (by decide)
  env_valid _ := playing_env
  last_key := by decide
  snap_legal := by unfold SnapLegal; decide
  result_bits := by decide
  err_bits := by decide

/-- The ends of the accepted ranges and their neighbours (section 2.3). -/
theorem witness_AcceptedFrequencyRanges :
    oscFreqOk .osc1 0x41200000 = true ∧ oscFreqOk .osc1 0x411FFFFF = false ∧
    oscFreqOk .osc2 0x46AC4400 = true ∧ oscFreqOk .osc2 0x46AC4401 = false ∧
    oscFreqOk .lfo 0x3DCCCCCD = true ∧ oscFreqOk .lfo 0x3DCCCCCC = false ∧
    oscFreqOk .lfo 0x435C8000 = true ∧ oscFreqOk .lfo 0x435C8001 = false ∧
    oscFreqOk .osc1 0xC3DC0000 = false := by decide

/-- The last offset whose next period does not wrap. -/
theorem witness_OscPeriodicBelowWrap :
    playing.oscSize.get .lfo ≠ 0 ∧
    (0xFFFFFF37 : Word).toNat + playing.oscSize.get .lfo * Config.DS .lfo < 2 ^ 32 := by decide

theorem witness_HardSyncRestartsOsc2 :
    playing.oscSize.osc1 ≠ 0 ∧ playing.oscSize.osc2 ≠ 0 ∧ (338 : Word).toNat % playing.oscSize.osc1 = 0 ∧
    playing.oscSize.osc2 ∣ playing.oscSize.osc1 := by decide

theorem witness_EnvCurvesFollowFormulas : 43 < 44 := by decide

/-- One record for each of the four clauses, the last exactly at the capacities (section 2.4). -/
theorem witness_EnvUpdateProcedure :
    envCheck { attack := 0, decay := c1, release := c1, sustain := 0, amplitude := c1 } = .error [.env] ∧
    envCheck { attack := 0x40A00000, decay := 0x40A012D7, release := c1, sustain := 0, amplitude := c1 } =
      .error [.env, .cap] ∧
    envRangesOk { attack := 0x3A83126F, decay := 0x3A83126F, release := c1, sustain := 0, amplitude := c1 } =
      true ∧
    envCheck { attack := 0x3A83126F, decay := 0x3A83126F, release := c1, sustain := 0, amplitude := c1 } =
      .error [.env] ∧
    envCheck { attack := 0x40A00000, decay := 0x40A00000, release := 0x41200000, sustain := c1,
               amplitude := c1 } = .ok ⟨2205, 2205, 4410⟩ := by decide

theorem witness_EnvUpdateCommandReports :
    envCheck { attack := stagedEnv.stg[9], decay := stagedEnv.stg[10], release := stagedEnv.stg[11]
               sustain := stagedEnv.stg[12], amplitude := stagedEnv.stg[13] } = .ok ⟨44, 44, 441⟩ := by
  decide

/-- Marks for each clause, at the offsets where the branches meet. -/
theorem witness_EnvMarksConsequences :
    playing.adSize ≠ 0 ∧ (7 : Word).toNat ≤ (7 : Word).toNat ∧ (7 : Word).toNat < (8 : Word).toNat ∧
    ((106 : Word).toNat - (7 : Word).toNat) / 100 < playing.adSize ∧
    (7 : Word).toNat + 100 * playing.adSize ≤ (107 : Word).toNat := by decide

/-- A held note and a released one, their release curves of one entry: the last offset of that entry, and
the first one past it. -/
theorem witness_EnvMarksConsequences_release :
    let held := { playing with trigOfs := 7, relSize := 1 }
    let released := { playing with trigOfs := 7, relOfs := 7, relSize := 1 }
    held.adSize ≠ 0 ∧ held.relOfs = 0xFFFFFFFF ∧ held.trigOfs.toNat < (8 : Word).toNat ∧
    released.adSize ≠ 0 ∧ 0 < released.relSize ∧ released.relOfs.toNat < (106 : Word).toNat ∧
    (106 : Word).toNat < released.relOfs.toNat + 100 ∧
    released.relOfs.toNat + 100 * released.relSize ≤ (107 : Word).toNat ∧
    released.relOfs.toNat < (107 : Word).toNat := by decide

/-- Scenario B: an accepted record whose segments have more than one entry. -/
theorem witness_EnvelopeCurvesMonotone :
    envCheck { attack := 0x3DCCCCCD, decay := 0x3DCCCCCD, release := 0x3F800000, sustain := 0x3F000000
               amplitude := 0x3F800000 } = .ok ⟨44, 44, 441⟩ ∧
    fmag 0x3F800000 < infMag ∧ fle 0 0x3F800000 = true ∧ 42 + 1 < 44 ∧ 439 + 1 < 441 := by decide

/-- APPLY_FULL accepts every part of this staged image. -/
theorem witness_ApplyThenSnapshotRoundTrip :
    (command 0x40000000 (staged 0 [0x447A0000, 0x43DC0000, 0, 0x7FC00001, 0x445C0000, 2, 0x3F800000,
      0x40000000, 1, 0x3DCCCCCD, 0x3DCCCCCD, 0x3F800000, 0x3F000000, 0x80000000, 3, 0])).result = 0 := by
  decide

theorem witness_KeyPressEffects : 127 < 128 ∧ 0 < 128 := by decide

theorem witness_KeysBelowFourRejected :
    3 < 128 ∧ oscFreqOk .osc1 (noteFreq 3) = false ∧ oscFreqOk .osc1 (noteFreq 4) = true := by decide

theorem witness_KeyPressOnConfiguredSucceeds : Inv playing ∧ playing.adSize ≠ 0 ∧ 4 ≤ 4 ∧ 4 < 128 :=
  ⟨playing_inv, by decide, by decide, by decide⟩

theorem witness_KeyReleaseGated : 127 < 128 ∧ State.reset.lastKey = 0xFF := by decide

theorem witness_NoteFreqEqualTempered : 127 < 128 ∧ 115 < 116 := by decide

theorem witness_ProduceStepEffects :
    playing.run = true ∧ 1763 < 1764 ∧ Config.PERIOD_BYTES = 1764 := by decide

theorem witness_TickWhileStoppedDiscarded : State.reset.run = false := rfl

/-- Two states that differ in what PRODUCE does not read. -/
theorem witness_PeriodDependsOnAudibleStateOnly :
    SameAudible playing (playing.setSynth { playing.act.synth with noiseAmplitude := c1 }) ∧
    playing ≠ playing.setSynth { playing.act.synth with noiseAmplitude := c1 } :=
  ⟨by constructor <;> intros <;> rfl, by decide⟩

theorem witness_UnconfiguredCoreIsSilent :
    (∀ u, State.reset.oscSize.get u = 0) ∧ State.reset.adSize = 0 :=
  ⟨fun u => by cases u <;> rfl, rfl⟩

theorem witness_PeriodByteLayout : ([0x0001, 0xFF80] : List I16)[1]? = some 0xFF80 := by decide

theorem value_of_units {a : F32} {n : Int} (h : units a = n) : value a = n / 2 ^ 149 := by
  rw [value, h]

/-- The largest finite patterns, a divisor that is no zero, the largest exact natural of rule R123. -/
theorem witness_ArithmeticRoundsOnce :
    isFinite 0x7F7FFFFF ∧ isFinite 0xFF7FFFFF ∧ isZero 0x00000001 = false ∧
    2 ^ 24 - 1 < 2 ^ 24 ∧ 2 ^ 32 - 1 < 2 ^ 32 := by
  unfold isFinite
  decide

theorem witness_ArithmeticSpecialCases :
    isNaN 0xFFFFFFFF = true ∧ isInf 0x7F800000 = true ∧ isInf 0xFF800000 = true ∧
    fsign 0x7F800000 ≠ fsign 0xFF800000 ∧ isZero 0x80000000 = true ∧ isNaN 0x7F800000 = false ∧
    isZero 0x7F800000 = false := by decide

/-- Infinities beside finite operands (the zero of rule R139's `inf * 0` and the largest finite value), and
results that are no NaN. -/
theorem witness_ArithmeticSpecialCases_finite :
    isInf 0xFF800000 = true ∧ isFinite 0x80000000 ∧ isZero 0x80000000 = true ∧ isFinite 0x7F7FFFFF ∧
    isZero 0x7F7FFFFF = false ∧ isNaN (fmul 0xFF800000 0x7F7FFFFF) = false ∧
    isNaN (fdiv 0xFF800000 0x80000000) = false := by
  unfold isFinite
  decide

/-- Two finite terms whose sum is exactly 0, and two whose difference is. -/
theorem witness_ArithmeticSpecialCases_zero :
    isFinite 0x3F800000 ∧ isFinite 0xBF800000 ∧ value 0x3F800000 + value 0xBF800000 = 0 ∧
    value 0x3F800000 - value 0x3F800000 = 0 := by
  have h1 : value 0x3F800000 = ((2 ^ 149 : Int) : ℚ) / 2 ^ 149 := value_of_units (by decide)
  have h2 : value 0xBF800000 = ((-2 ^ 149 : Int) : ℚ) / 2 ^ 149 := value_of_units (by decide)
  refine ⟨by unfold isFinite; decide, by unfold isFinite; decide, ?_, sub_self _⟩
  rw [h1, h2]
  norm_num

theorem witness_ComparisonsFollowValues :
    isFinite 0x80000000 ∧ isFinite 0x00000000 ∧ isNaN 0x7F800001 = true ∧ isNaN 0x7F800000 = false := by
  unfold isFinite
  decide

/-- A pattern for each clause: 1.0, -0, 2^32, 4294967040.0, a NaN. -/
theorem witness_FloatToNatural :
    isNaN 0x7FC00000 = true ∧ isFinite 0x80000000 ∧ value 0x80000000 ≤ 0 ∧ isFinite 0x4F7FFFFF ∧
    0 < value 0x4F7FFFFF ∧ value 0x4F7FFFFF < 2 ^ 32 - 1 ∧ isFinite 0x4F800000 ∧
    2 ^ 32 ≤ value 0x4F800000 := by
  have h0 : value 0x80000000 = ((0 : Int) : ℚ) / 2 ^ 149 := value_of_units (by decide)
  have h1 : value 0x4F7FFFFF = ((4294967040 * 2 ^ 149 : Int) : ℚ) / 2 ^ 149 := value_of_units (by decide)
  have h2 : value 0x4F800000 = ((2 ^ 32 * 2 ^ 149 : Int) : ℚ) / 2 ^ 149 := value_of_units (by decide)
  refine ⟨by decide, by unfold isFinite; decide, ?_, by unfold isFinite; decide, ?_, ?_,
    by unfold isFinite; decide, ?_⟩
  · rw [h0]; norm_num
  · rw [h1]; norm_num
  · rw [h1]; norm_num
  · rw [h2]; norm_num

theorem witness_OutputCastTruncatesAndClamps :
    isNaN 0xFFC00000 = true ∧ isInf 0xFF800000 = true ∧ isFinite 0x47000000 ∧ 0 ≤ value 0x47000000 ∧
    isFinite 0xC7000100 ∧ value 0xC7000100 ≤ 0 := by
  have h1 : value 0x47000000 = ((32768 * 2 ^ 149 : Int) : ℚ) / 2 ^ 149 := value_of_units (by decide)
  have h2 : value 0xC7000100 = ((-32769 * 2 ^ 149 : Int) : ℚ) / 2 ^ 149 := value_of_units (by decide)
  refine ⟨by decide, by decide, by unfold isFinite; decide, ?_, by unfold isFinite; decide, ?_⟩
  · rw [h1]; norm_num
  · rw [h2]; norm_num

theorem witness_ExponentialProperties :
    fle 0xFF800000 0 = true ∧ fle 0x80000000 0 = true ∧ fle 0xC2D00000 0xC2CFFFFF = true := by decide

theorem witness_SineProperties :
    2 ≤ 2 ∧ 2 ≤ Config.OSC_BUF_CAP ∧ 2 ∣ 2 ∧ 4 ∣ 4408 ∧ 4408 ≤ Config.OSC_BUF_CAP ∧ 4407 < 4408 ∧
    2 ∣ 4410 := by decide

/-- Every command answers a next state from `playing`. -/
theorem witness_CommandRegisterFrame (i : Instr) : ∃ t, exec i playing = .next t := by
  cases i <;> exact ⟨_, rfl⟩

theorem witness_CommandBufferFrame :
    (∃ t, exec (.oscUpdate .osc1) playing = .next t ∧ t.oscSize.get .osc1 ≤ 441) ∧
    updatesOsc (.oscUpdate .osc1) .osc2 = false ∧ updatesEnv (.oscUpdate .osc1) = false :=
  ⟨⟨_, rfl, by decide⟩, by decide, by decide⟩

theorem witness_CommandErrAccumulates : ∃ t, exec .applyFull State.reset = .next t := ⟨_, rfl⟩

theorem witness_ResultCodesPerCommand :
    Inv playing ∧ (∃ t, exec (.keyPress 0 0) playing = .next t) ∧
    (∃ t, exec (.oscUpdate .lfo) playing = .next t) ∧ (∃ t, exec (.oscSetAmp .osc1) playing = .next t) ∧
    (∃ t, exec .envUpdate playing = .next t) ∧ (∃ t, exec .applyFull playing = .next t) ∧
    ∃ t, exec (.keyRelease 127) playing = .next t :=
  ⟨playing_inv, ⟨_, rfl⟩, ⟨_, rfl⟩, ⟨_, rfl⟩, ⟨_, rfl⟩, ⟨_, rfl⟩, ⟨_, rfl⟩⟩

/-- A PRODUCE and a reset move the counter; START sets `run`; a reset clears it. -/
theorem witness_SequencingStateWriters :
    (after (.tick 0) playing).curOfs ≠ playing.curOfs ∧
    (after .reset { playing with curOfs := 441 }).curOfs ≠ 441 ∧
    (command 0x01000000 State.reset).run = true ∧ (after .reset playing).run = false := by decide

theorem witness_ErrBitsSticky :
    ({ playing with err := 0x801 } : State).err.getLsbD 0 = true ∧
    (after (.write .word 0x08C 0x001) { playing with err := 0x801 }).err.getLsbD 0 = false ∧
    (after .reset { playing with err := 0x801 }).err.getLsbD 11 = false := by decide

theorem witness_OnlyTheirWriterChanges :
    (after (.write .word 0x03C 5) playing).stg ≠ playing.stg ∧
    (command 0x41000000 playing).snap ≠ playing.snap ∧
    (command 0x50457F00 playing).lastKey ≠ playing.lastKey ∧
    (after (.tick 0) playing).underruns ≠ playing.underruns := by decide

theorem witness_StepKeepsInvariant :
    Inv playing ∧ ∃ t, step { playing with inputs := [.write .word 0x080 0x40000000] } = .next t :=
  ⟨playing_inv, _, rfl⟩

theorem witness_InvariantStatesAreSafe : Inv playing := playing_inv

end Sys2Proof.Machine.Tests
end

/-! ### A word that decodes is the encoding of a well-formed command (rules R92, R94) -/

namespace Sys2Proof

theorem field_lt (w : Word) (hi lo : Nat) : field w hi lo < 2 ^ (hi + 1 - lo) :=
  Nat.mod_lt _ (Nat.two_pow_pos _)

/-- A word is its four bytes. -/
theorem word_eq_of_fields {v w : Word} (h3 : field v 31 24 = field w 31 24)
    (h2 : field v 23 16 = field w 23 16) (h1 : field v 15 8 = field w 15 8)
    (h0 : field v 7 0 = field w 7 0) : v = w := by
  have hv := v.isLt
  have hw := w.isLt
  simp only [field] at h3 h2 h1 h0
  exact BitVec.eq_of_toNat_eq (by omega)

/-- The per-command lemmas of `EncodedFields`, put together: the byte fields of every command's word. -/
theorem encode_fields (i : Instr) : Laws.EncodedFields.Statement i := by
  cases i with
  | nop => exact Laws.EncodedFields.nop
  | start => exact Laws.EncodedFields.start
  | oscUpdate u => exact Laws.EncodedFields.oscUpdate u
  | oscSetAmp u => exact Laws.EncodedFields.oscSetAmp u
  | oscSetFreq u => exact Laws.EncodedFields.oscSetFreq u
  | oscSetWave u => exact Laws.EncodedFields.oscSetWave u
  | envUpdate => exact Laws.EncodedFields.envUpdate
  | setLfoEn flag => exact Laws.EncodedFields.setLfoEn flag
  | setSyncEn flag => exact Laws.EncodedFields.setSyncEn flag
  | setNoise => exact Laws.EncodedFields.setNoise
  | applyFull => exact Laws.EncodedFields.applyFull
  | snapshot => exact Laws.EncodedFields.snapshot
  | keyPress key vel => exact Laws.EncodedFields.keyPress key vel
  | keyRelease key => exact Laws.EncodedFields.keyRelease key

/-- `w` carries the opcode and the operand bytes of the well-formed command `i` (rules R90, R94). -/
structure Spells (w : Word) (i : Instr) : Prop where
  wf : i.wf = true
  op : field w 31 24 = i.op
  operandA : field w 23 16 = i.operandA
  operandB : field w 15 8 = i.operandB
  low : field w 7 0 = 0

theorem Spells.encode_eq {w : Word} {i : Instr} (h : Spells w i) : encode i = w := by
  obtain ⟨h3, h2, h1, h0⟩ := encode_fields i h.wf
  exact word_eq_of_fields (h3.trans h.op.symm) (h2.trans h.operandA.symm)
    (h1.trans h.operandB.symm) (h0.trans h.low.symm)

/-! One lemma a format of rule R91: what a successful decode says of the word's fields. -/

theorem decodeZ_ok {w : Word} {j i : Instr} (h : decodeZ w j = .ok i) :
    i = j ∧ field w 23 16 = 0 ∧ field w 15 8 = 0 ∧ field w 7 0 = 0 := by
  unfold decodeZ at h
  split at h
  · next hz =>
    simp only [field] at hz ⊢
    exact ⟨(Except.ok.inj h).symm, by omega, by omega, by omega⟩
  · cases h

theorem OscUnit.ofIndex?_eq_some {n : Nat} {u : OscUnit} (h : OscUnit.ofIndex? n = some u) :
    n = u.index := by
  unfold OscUnit.ofIndex? at h
  split at h <;> cases h <;> rfl

theorem decodeU_ok {w : Word} {mk : OscUnit → Instr} {i : Instr} (h : decodeU w mk = .ok i) :
    ∃ u, i = mk u ∧ field w 23 16 = u.index ∧ field w 15 8 = 0 ∧ field w 7 0 = 0 := by
  unfold decodeU at h
  split at h
  · next hz =>
    split at h
    · next u hu =>
      have hi := OscUnit.ofIndex?_eq_some hu
      simp only [field] at hz hi ⊢
      exact ⟨u, (Except.ok.inj h).symm, by omega, by omega, by omega⟩
    · cases h
  · cases h

theorem toNat_beq_one {n : Nat} (h : n < 2) : (n == 1).toNat = n := by
  interval_cases n <;> rfl

theorem decodeF_ok {w : Word} {mk : Bool → Instr} {i : Instr} (h : decodeF w mk = .ok i) :
    ∃ f : Bool, i = mk f ∧ field w 23 16 = f.toNat ∧ field w 15 8 = 0 ∧ field w 7 0 = 0 := by
  unfold decodeF at h
  split at h
  · next hz =>
    refine ⟨_, (Except.ok.inj h).symm, ?_⟩
    rw [toNat_beq_one (field_lt w 16 16)]
    simp only [field] at hz ⊢
    omega
  · cases h

theorem decodeK_ok {w : Word} {mk : Nat → Instr} {i : Instr} (h : decodeK w mk = .ok i) :
    ∃ key < 128, i = mk key ∧ field w 23 16 = key ∧ field w 15 8 = 0 ∧ field w 7 0 = 0 := by
  unfold decodeK at h
  split at h
  · next hz =>
    refine ⟨_, field_lt w 22 16, (Except.ok.inj h).symm, ?_⟩
    simp only [field] at hz ⊢
    omega
  · cases h

theorem decodeKV_ok {w : Word} {mk : Nat → Nat → Instr} {i : Instr} (h : decodeKV w mk = .ok i) :
    ∃ key < 128, ∃ vel < 128, i = mk key vel ∧
      field w 23 16 = key ∧ field w 15 8 = vel ∧ field w 7 0 = 0 := by
  unfold decodeKV at h
  split at h
  · next hz =>
    refine ⟨_, field_lt w 22 16, _, field_lt w 14 8, (Except.ok.inj h).symm, ?_⟩
    simp only [field] at hz ⊢
    omega
  · cases h

/-- A word that decodes spells, byte by byte, the command it decodes to. -/
theorem spells_of_decodeWord {w : Word} {i : Instr} (h : decodeWord w = .ok i) : Spells w i := by
  unfold decodeWord at h
  split at h
  case h_1 | h_2 | h_7 | h_10 | h_11 | h_12 =>
    obtain ⟨rfl, ha, hb, hl⟩ := decodeZ_ok h
    exact ⟨rfl, by assumption, ha, hb, hl⟩
  case h_3 | h_4 | h_5 | h_6 =>
    obtain ⟨u, rfl, ha, hb, hl⟩ := decodeU_ok h
    exact ⟨rfl, by assumption, ha, hb, hl⟩
  case h_8 | h_9 =>
    obtain ⟨f, rfl, ha, hb, hl⟩ := decodeF_ok h
    exact ⟨rfl, by assumption, ha, hb, hl⟩
  case h_13 =>
    obtain ⟨key, hk, vel, hv, rfl, ha, hb, hl⟩ := decodeKV_ok h
    exact ⟨by simp [Instr.wf, hk, hv], by assumption, ha, hb, hl⟩
  case h_14 =>
    obtain ⟨key, hk, rfl, ha, hb, hl⟩ := decodeK_ok h
    exact ⟨by simp [Instr.wf, hk], by assumption, ha, hb, hl⟩
  case h_15 => cases h

end Sys2Proof


/-! ### What a command does

Every command ends with `State.report`. Before that it writes some registers itself (`commandRegs`) and
runs at most one `OscUpdate` a unit and at most one `EnvUpdate`. -/

namespace Sys2Proof.Machine

/-- Two states agree on everything but the oscillators and the envelope, the synth record and the report
registers included: the frame of the two update procedures. -/
structure SameRegs (s t : State) : Prop extends SameRest s t where
  synth : s.act.synth = t.act.synth
  result : s.result = t.result
  err : s.err = t.err
  epoch : s.mem.epoch = t.mem.epoch

theorem SameRegs.refl (s : State) : SameRegs s s := ⟨.refl s, rfl, rfl, rfl, rfl⟩

theorem SameRegs.trans {s t v : State} (a : SameRegs s t) (b : SameRegs t v) : SameRegs s v :=
  ⟨a.toSameRest.trans b.toSameRest, a.synth.trans b.synth, a.result.trans b.result, a.err.trans b.err,
    a.epoch.trans b.epoch⟩

theorem SameRegs.envTrigger {s t : State} (h : SameRegs s t) (g : Word) :
    SameRegs (envTrigger g s) (envTrigger g t) :=
  ⟨⟨h.stg, h.snap, rfl, rfl, h.cur_ofs, h.last_key, h.run, h.underruns, h.peek_addr, h.inputs, h.label⟩,
    h.synth, h.result, h.err, h.epoch⟩

theorem oscUpdate_sameRegs (u : OscUnit) (new : OscRequest) (s : State) :
    SameRegs (oscUpdate u new s).2 s := by
  obtain ⟨hrest, hsynth, hresult, herr, hepoch⟩ := oscUpdate_rest u new s
  exact ⟨hrest, hsynth, hresult, herr, hepoch⟩

theorem envUpdate_sameRegs (p : EnvParams) (s : State) : SameRegs (envUpdate p s).2 s := by
  obtain ⟨hrest, hsynth, hresult, herr, hepoch⟩ := envUpdate_rest p s
  exact ⟨hrest, hsynth, hresult, herr, hepoch⟩

/-- KEY_RELEASE as one record update: it can move `relOfs` only (rule R229). -/
theorem keyRelease_eq (key : Nat) (s : State) :
    keyRelease key s = { s with relOfs := if key = s.lastKey.toNat then s.curOfs else s.relOfs } := by
  unfold keyRelease envRelease
  split <;> rfl

/-- The registers a command writes itself, outside the update procedures and the report. -/
def commandRegs (i : Instr) (s : State) : State :=
  match i with
  | .start => { s with run := true }
  | .setLfoEn flag => s.setSynth { s.act.synth with lfoEnabled := flag }
  | .setSyncEn flag => s.setSynth { s.act.synth with osc2SyncEnabled := flag }
  | .setNoise => s.setSynth { s.act.synth with noiseAmplitude := s.stgWord 15 }
  | .applyFull => s.setSynth s.stgSynth
  | .snapshot => { s with snap := s.act.image }
  | .keyPress key _ => envTrigger s.curOfs { s with lastKey := BitVec.ofNat 8 key }
  | .keyRelease key => { s with relOfs := if key = s.lastKey.toNat then s.curOfs else s.relOfs }
  | .nop | .oscUpdate _ | .oscSetAmp _ | .oscSetFreq _ | .oscSetWave _ | .envUpdate => s

/-- The result word of one `OscUpdate` and the state it leaves (rules R155 to R158). -/
def oscEffect (u : OscUnit) (new : OscRequest) (s : State) : Word × State :=
  (rejected (oscUpdate u new s).1 (rejUnit u), (oscUpdate u new s).2)

/-- The result word of a command and the state it leaves before reporting it. -/
def commandEffect (i : Instr) (s : State) : Word × State :=
  match i with
  | .oscUpdate u => oscEffect u (s.stgOsc u) s
  | .oscSetAmp u => oscEffect u { s.actOsc u with amp := (s.stgOsc u).amp } s
  | .oscSetFreq u => oscEffect u { s.actOsc u with freq := (s.stgOsc u).freq } s
  | .oscSetWave u => oscEffect u { s.actOsc u with waveWord := (s.stgOsc u).waveWord } s
  | .envUpdate => (rejected (envUpdate s.stgEnv s).1 rejEnv, (envUpdate s.stgEnv s).2)
  | .applyFull => applyFull s
  | .keyPress key vel => keyPress key vel s
  | .nop | .start | .setLfoEn _ | .setSyncEn _ | .setNoise | .snapshot | .keyRelease _ =>
    (0, commandRegs i s)

/-- Every command answers a next state, which is its effect with the result word reported (rule R230). -/
theorem exec_eq_report (i : Instr) (s : State) :
    exec i s = .next ((commandEffect i s).2.report (commandEffect i s).1) := by
  cases i with
  | keyRelease key => exact congrArg (fun t : State => Host.Outcome.next (t.report 0)) (keyRelease_eq key s)
  | _ => rfl

theorem eq_report_of_exec {i : Instr} {s t : State} (h : exec i s = .next t) :
    t = (commandEffect i s).2.report (commandEffect i s).1 :=
  (Host.Outcome.next.inj ((exec_eq_report i s).symm.trans h)).symm

/-! #### The two commands that run several updates -/

/-- The synth record applied, then the three oscillators (rule R226, the parts before the envelope). -/
def applyOscs (s : State) : State :=
  (oscUpdate .lfo (s.stgOsc .lfo)
    (oscUpdate .osc2 (s.stgOsc .osc2)
      (oscUpdate .osc1 (s.stgOsc .osc1) (s.setSynth s.stgSynth)).2).2).2

theorem applyFull_state (s : State) : (applyFull s).2 = (envUpdate s.stgEnv (applyOscs s)).2 := rfl

/-- `lastKey` stored, then OSC1 retuned (rule R228, the first two actions). -/
def keyPressOsc (key : Nat) (s : State) : State :=
  (oscUpdate .osc1 { s.actOsc .osc1 with freq := noteFreq key }
    { s with lastKey := BitVec.ofNat 8 key }).2

/-- The envelope record KEY_PRESS asks for (rule R228). -/
def keyPressEnv (key vel : Nat) (s : State) : EnvParams :=
  { (keyPressOsc key s).act.env with amplitude := velocityAmplitude vel }

theorem keyPressOsc_sameRegs (key : Nat) (s : State) :
    SameRegs (keyPressOsc key s) { s with lastKey := BitVec.ofNat 8 key } :=
  oscUpdate_sameRegs _ _ _

theorem keyPress_state (key vel : Nat) (s : State) :
    (keyPress key vel s).2 = envTrigger s.curOfs (envUpdate (keyPressEnv key vel s) (keyPressOsc key s)).2 :=
  congrArg (envTrigger · _) ((envUpdate_sameRegs _ _).trans (keyPressOsc_sameRegs key s)).cur_ofs

/-! #### The frame of a command -/

theorem applyFull_sameRegs (s : State) : SameRegs (applyFull s).2 (s.setSynth s.stgSynth) := by
  rw [applyFull_state]
  exact (envUpdate_sameRegs _ _).trans <| (oscUpdate_sameRegs _ _ _).trans <|
    (oscUpdate_sameRegs _ _ _).trans (oscUpdate_sameRegs _ _ _)

theorem keyPress_sameRegs (key vel : Nat) (s : State) :
    SameRegs (keyPress key vel s).2 (commandRegs (.keyPress key vel) s) := by
  rw [keyPress_state]
  exact ((envUpdate_sameRegs _ _).trans (keyPressOsc_sameRegs key s)).envTrigger s.curOfs

/-- Outside the oscillators and the envelope a command writes what `commandRegs` writes, nothing else. -/
theorem commandEffect_sameRegs (i : Instr) (s : State) :
    SameRegs (commandEffect i s).2 (commandRegs i s) := by
  cases i with
  | oscUpdate u | oscSetAmp u | oscSetFreq u | oscSetWave u => exact oscUpdate_sameRegs u _ s
  | envUpdate => exact envUpdate_sameRegs _ s
  | applyFull => exact applyFull_sameRegs s
  | keyPress key vel => exact keyPress_sameRegs key vel s
  | nop | start | setLfoEn _ | setSyncEn _ | setNoise | snapshot | keyRelease _ => exact .refl _

/-! #### The oscillators and the envelope after a command -/

theorem setSynth_sameOsc (u : OscUnit) (p : SynthParams) (s : State) : SameOsc u (s.setSynth p) s :=
  ⟨rfl, rfl, fun _ => rfl⟩

theorem setSynth_sameEnv (p : SynthParams) (s : State) : SameEnv (s.setSynth p) s :=
  ⟨rfl, rfl, rfl, rfl, fun _ => rfl, fun _ => rfl⟩

theorem keyPress_sameOsc (u : OscUnit) (key vel : Nat) (s : State) :
    SameOsc u (keyPress key vel s).2 (keyPressOsc key s) :=
  have htrigger : SameOsc u (keyPress key vel s).2
      (envUpdate (keyPressEnv key vel s) (keyPressOsc key s)).2 := ⟨rfl, rfl, fun _ => rfl⟩
  htrigger.trans (envUpdate_sameOsc _ u _)

/-- A unit no update path of the command names is left alone. -/
theorem commandEffect_sameOsc {i : Instr} {u : OscUnit} (s : State) (h : updatesOsc i u = false) :
    SameOsc u (commandEffect i s).2 s := by
  cases i with
  | oscUpdate v | oscSetAmp v | oscSetFreq v | oscSetWave v =>
    have hv : u ≠ v := by rintro rfl; simp [updatesOsc] at h
    exact oscUpdate_sameOsc _ s hv
  | envUpdate => exact envUpdate_sameOsc _ u s
  | applyFull => cases h
  | keyPress key vel =>
    have hu : u ≠ .osc1 := by rintro rfl; cases h
    have hosc : SameOsc u (keyPressOsc key s) s :=
      (oscUpdate_sameOsc _ _ hu).trans ⟨rfl, rfl, fun _ => rfl⟩
    exact (keyPress_sameOsc u key vel s).trans hosc
  | nop | start | setLfoEn _ | setSyncEn _ | setNoise | snapshot | keyRelease _ =>
    exact ⟨rfl, rfl, fun _ => rfl⟩

theorem applyOscs_osc (u : OscUnit) (s : State) :
    SameOsc u (applyOscs s) (oscUpdate u (s.stgOsc u) s).2 := by
  have h0 := setSynth_sameOsc u s.stgSynth s
  cases u with
  | osc1 =>
    exact (oscUpdate_sameOsc _ _ (by decide)).trans <| (oscUpdate_sameOsc _ _ (by decide)).trans <|
      oscUpdate_congr _ _ h0
  | osc2 =>
    exact (oscUpdate_sameOsc _ _ (by decide)).trans <|
      oscUpdate_congr _ _ ((oscUpdate_sameOsc _ _ (by decide)).trans h0)
  | lfo =>
    exact oscUpdate_congr _ _ <| (oscUpdate_sameOsc _ _ (by decide)).trans <|
      (oscUpdate_sameOsc _ _ (by decide)).trans h0

/-- A unit the command does update ends as one `OscUpdate` leaves it. -/
theorem commandEffect_osc {i : Instr} {u : OscUnit} (s : State) (h : updatesOsc i u = true) :
    ∃ new, SameOsc u (commandEffect i s).2 (oscUpdate u new s).2 := by
  cases i with
  | oscUpdate v | oscSetAmp v | oscSetFreq v | oscSetWave v =>
    obtain rfl : v = u := by simpa [updatesOsc] using h
    exact ⟨_, .refl v _⟩
  | applyFull => exact ⟨_, (envUpdate_sameOsc _ u _).trans (applyOscs_osc u s)⟩
  | keyPress key vel =>
    obtain rfl : u = .osc1 := by simpa [updatesOsc] using h
    have hosc : SameOsc .osc1 (keyPressOsc key s) (oscUpdate .osc1 _ s).2 :=
      oscUpdate_congr _ _ ⟨rfl, rfl, fun _ => rfl⟩
    exact ⟨_, (keyPress_sameOsc _ key vel s).trans hosc⟩
  | nop | start | envUpdate | setLfoEn _ | setSyncEn _ | setNoise | snapshot | keyRelease _ => cases h

theorem commandEffect_sameEnv {i : Instr} (s : State) (h : updatesEnv i = false) :
    SameEnv (commandEffect i s).2 s := by
  cases i with
  | oscUpdate u | oscSetAmp u | oscSetFreq u | oscSetWave u => exact oscUpdate_sameEnv u _ s
  | envUpdate | applyFull | keyPress _ _ => cases h
  | nop | start | setLfoEn _ | setSyncEn _ | setNoise | snapshot | keyRelease _ =>
    exact ⟨rfl, rfl, rfl, rfl, fun _ => rfl, fun _ => rfl⟩

theorem applyOscs_sameEnv (s : State) : SameEnv (applyOscs s) s :=
  (oscUpdate_sameEnv _ _ _).trans <| (oscUpdate_sameEnv _ _ _).trans <|
    (oscUpdate_sameEnv _ _ _).trans (setSynth_sameEnv _ s)

theorem keyPressOsc_sameEnv (key : Nat) (s : State) : SameEnv (keyPressOsc key s) s :=
  (oscUpdate_sameEnv _ _ _).trans ⟨rfl, rfl, rfl, rfl, fun _ => rfl, fun _ => rfl⟩

/-- Where the command updates the envelope, it ends as one `EnvUpdate` leaves it. -/
theorem commandEffect_env {i : Instr} (s : State) (h : updatesEnv i = true) :
    ∃ p, SameEnv (commandEffect i s).2 (envUpdate p s).2 := by
  cases i with
  | envUpdate => exact ⟨_, .refl _⟩
  | applyFull => exact ⟨_, envUpdate_congr _ (applyOscs_sameEnv s)⟩
  | keyPress key vel =>
    have henv : SameEnv (commandEffect (.keyPress key vel) s).2
        (envUpdate (keyPressEnv key vel s) (keyPressOsc key s)).2 :=
      ⟨rfl, rfl, rfl, rfl, fun _ => rfl, fun _ => rfl⟩
    exact ⟨_, henv.trans (envUpdate_congr _ (keyPressOsc_sameEnv key s))⟩
  | nop | start | oscUpdate _ | oscSetAmp _ | oscSetFreq _ | oscSetWave _ | setLfoEn _ | setSyncEn _ |
    setNoise | snapshot | keyRelease _ => cases h

/-- Every command keeps the buffers' canonical form. -/
theorem commandEffect_mem_wf (i : Instr) (s : State) (h : s.mem.wf) : (commandEffect i s).2.mem.wf := by
  cases i with
  | oscUpdate u | oscSetAmp u | oscSetFreq u | oscSetWave u => exact oscUpdate_mem_wf u _ s h
  | envUpdate => exact envUpdate_mem_wf _ s h
  | applyFull =>
    exact envUpdate_mem_wf _ _ <| oscUpdate_mem_wf _ _ _ <| oscUpdate_mem_wf _ _ _ <|
      oscUpdate_mem_wf _ _ _ h
  | keyPress key vel => exact envUpdate_mem_wf _ _ (oscUpdate_mem_wf _ _ _ h)
  | nop | start | setLfoEn _ | setSyncEn _ | setNoise | snapshot | keyRelease _ => exact h

/-! #### The result word of a command -/

/-- Two words with no bit outside a mask have none together. -/
theorem or_masked {a b m : Word} (ha : a &&& m = 0) (hb : b &&& m = 0) : (a ||| b) &&& m = 0 := by
  rw [BitVec.and_or_distrib_right, ha, hb]
  rfl

/-- A code set without E_UNDERRUN reports assigned bits of RESULT only (rules R46, R260). -/
theorem codesWord_masked {c : Codes} (h : .underrun ∉ c) : codesWord c &&& ~~~resultMask = 0 := by
  induction c with
  | nil => rfl
  | cons e c ih =>
    obtain ⟨he, hc⟩ := List.ne_and_not_mem_of_not_mem_cons h
    have hbit : e.bit &&& ~~~resultMask = 0 := by
      cases e with
      | underrun => exact absurd rfl he
      | freq | env | cap | illegal => rfl
    exact or_masked hbit (ih hc)

theorem rejected_masked {c : Codes} {rej : Word} (h : .underrun ∉ c) (hrej : rej &&& ~~~resultMask = 0) :
    rejected c rej &&& ~~~resultMask = 0 := by
  refine or_masked (codesWord_masked h) ?_
  split
  · rfl
  · exact hrej

theorem rejUnit_masked (u : OscUnit) : rejUnit u &&& ~~~resultMask = 0 := by cases u <;> rfl

/-- `OscUpdate` never answers E_UNDERRUN. -/
theorem oscUpdate_no_underrun (u : OscUnit) (new : OscRequest) (s : State) :
    .underrun ∉ (oscUpdate u new s).1 := by
  obtain ⟨h, -⟩ | ⟨h, -⟩ | ⟨h, -⟩ | ⟨w, h, -⟩ := oscCheck_cases u new <;> simp [oscUpdate, h]

/-- `EnvUpdate` never answers E_UNDERRUN. -/
theorem envUpdate_no_underrun (p : EnvParams) (s : State) : .underrun ∉ (envUpdate p s).1 := by
  obtain ⟨h, -⟩ | ⟨h, -⟩ | ⟨h, -⟩ := envCheck_cases p <;> simp [envUpdate, h]

theorem oscRejected_masked (u : OscUnit) (new : OscRequest) (s : State) :
    rejected (oscUpdate u new s).1 (rejUnit u) &&& ~~~resultMask = 0 :=
  rejected_masked (oscUpdate_no_underrun u new s) (rejUnit_masked u)

theorem envRejected_masked (p : EnvParams) (s : State) :
    rejected (envUpdate p s).1 rejEnv &&& ~~~resultMask = 0 :=
  rejected_masked (envUpdate_no_underrun p s) rfl

/-- The result word of every command has assigned bits only (rules R44 (h), R46). -/
theorem commandEffect_masked (i : Instr) (s : State) : (commandEffect i s).1 &&& ~~~resultMask = 0 := by
  cases i with
  | oscUpdate u | oscSetAmp u | oscSetFreq u | oscSetWave u => exact oscRejected_masked u _ s
  | envUpdate => exact envRejected_masked _ s
  | applyFull =>
    exact or_masked (or_masked (or_masked (oscRejected_masked _ _ _) (oscRejected_masked _ _ _))
      (oscRejected_masked _ _ _)) (envRejected_masked _ _)
  | keyPress key vel => exact or_masked (oscRejected_masked _ _ _) (envRejected_masked _ _)
  | nop | start | setLfoEn _ | setSyncEn _ | setNoise | snapshot | keyRelease _ => exact BitVec.zero_and

/-! #### The frames of a command -/

/-- Settles O51: outside the update procedures, whose frames cover these registers, a command writes
`commandRegs`. -/
theorem commandRegisterFrame : Obligations.CommandRegisterFrame := by
  intro i s t h
  have regs := commandEffect_sameRegs i s
  rw [eq_report_of_exec h]
  simp only [State.report_stg, State.report_curOfs, State.report_underruns, State.report_peekAddr,
    State.report_inputs, State.report_label, State.report_mem, State.report_snap, State.report_run,
    State.report_act, State.report_relOfs, State.report_lastKey, State.report_trigOfs,
    regs.stg, regs.cur_ofs, regs.underruns, regs.peek_addr, regs.inputs, regs.label, regs.epoch, regs.snap,
    regs.run, regs.synth, regs.rel_ofs, regs.last_key, regs.trig_ofs]
  cases i <;> simp [commandRegs, updatesSynth, isKeyEvent]

/-- No command writes ERR before it reports. -/
theorem commandEffect_err (i : Instr) (s : State) : (commandEffect i s).2.err = s.err :=
  (commandEffect_sameRegs i s).err.trans (by cases i <;> rfl)

/-- Settles O53: the report ORs the result word into ERR, and no code set of an update holds E_UNDERRUN. -/
theorem commandErrAccumulates : Obligations.CommandErrAccumulates := by
  intro i s t h
  rw [eq_report_of_exec h]
  exact ⟨congrArg (· ||| _) (commandEffect_err i s), commandEffect_masked i s⟩

theorem SameOsc.of_exec {i : Instr} {u : OscUnit} {s t : State} (h : exec i s = .next t)
    (hu : updatesOsc i u = false) : SameOsc u t s := by
  rw [eq_report_of_exec h]
  exact (commandEffect_sameOsc s hu).report _

theorem SameEnv.of_exec {i : Instr} {s t : State} (h : exec i s = .next t) (he : updatesEnv i = false) :
    SameEnv t s := by
  rw [eq_report_of_exec h]
  exact (commandEffect_sameEnv s he).report _

/-- A unit after a command: left alone, or as one `OscUpdate` leaves it. -/
theorem exec_osc_cases {i : Instr} {s t : State} (h : exec i s = .next t) (u : OscUnit) :
    SameOsc u t s ∨ ∃ new, SameOsc u t (oscUpdate u new s).2 := by
  cases hu : updatesOsc i u with
  | false => exact .inl (.of_exec h hu)
  | true =>
    obtain ⟨new, hnew⟩ := commandEffect_osc s hu
    rw [eq_report_of_exec h]
    exact .inr ⟨new, hnew.report _⟩

/-- The envelope after a command: left alone, or as one `EnvUpdate` leaves it. -/
theorem exec_env_cases {i : Instr} {s t : State} (h : exec i s = .next t) :
    SameEnv t s ∨ ∃ p, SameEnv t (envUpdate p s).2 := by
  cases he : updatesEnv i with
  | false => exact .inl (.of_exec h he)
  | true =>
    obtain ⟨p, hp⟩ := commandEffect_env s he
    rw [eq_report_of_exec h]
    exact .inr ⟨p, hp.report _⟩

/-- `OscUpdate` writes no entry at or beyond the size it leaves (rule R31). -/
theorem oscUpdate_read_ge (u : OscUnit) (new : OscRequest) (s : State) {k : Nat}
    (hk : (oscUpdate u new s).2.oscSize.get u ≤ k) :
    (oscUpdate u new s).2.mem.read (.osc u) k = s.mem.read (.osc u) k := by
  obtain ⟨c, -, -, e⟩ | ⟨w, n, -, -, -, -, -, e⟩ := oscUpdate_cases u new s <;> rw [e] at hk ⊢
  exact oscStore_read_ge u new w s (by simpa using hk)

/-- `EnvUpdate` writes no entry at or beyond the sizes it leaves (rule R31). -/
theorem envUpdate_read_ge (p : EnvParams) (s : State) (k : Nat) :
    ((envUpdate p s).2.adSize ≤ k → (envUpdate p s).2.mem.read .ad k = s.mem.read .ad k) ∧
    ((envUpdate p s).2.relSize ≤ k → (envUpdate p s).2.mem.read .rel k = s.mem.read .rel k) := by
  obtain ⟨c, -, -, e⟩ | ⟨z, -, -, -, -, -, e⟩ := envUpdate_cases p s <;> rw [e]
  · exact ⟨fun _ => rfl, fun _ => rfl⟩
  · exact ⟨envStore_read_ad_ge p z s, envStore_read_rel_ge p z s⟩

theorem exec_read_osc_ge {i : Instr} {s t : State} (h : exec i s = .next t) (u : OscUnit) (k : Nat)
    (hk : t.oscSize.get u ≤ k) : t.mem.read (.osc u) k = s.mem.read (.osc u) k := by
  obtain same | ⟨new, upd⟩ := exec_osc_cases h u
  · exact same.buf k
  · rw [upd.size] at hk
    exact (upd.buf k).trans (oscUpdate_read_ge u new s hk)

theorem exec_read_env_ge {i : Instr} {s t : State} (h : exec i s = .next t) (k : Nat) :
    (t.adSize ≤ k → t.mem.read .ad k = s.mem.read .ad k) ∧
    (t.relSize ≤ k → t.mem.read .rel k = s.mem.read .rel k) := by
  obtain same | ⟨p, upd⟩ := exec_env_cases h
  · exact ⟨fun _ => same.ad_buf k, fun _ => same.rel_buf k⟩
  · rw [upd.ad_size, upd.rel_size, upd.ad_buf k, upd.rel_buf k]
    exact envUpdate_read_ge p s k

/-- Settles O52: an oscillator or the envelope is left alone or ends as one run of its update procedure
leaves it, and that writes below the new size only. -/
theorem commandBufferFrame : Obligations.CommandBufferFrame := by
  intro i s t h
  exact ⟨fun _ hu => .of_exec h hu, fun he => .of_exec h he, exec_read_osc_ge h,
    fun k => (exec_read_env_ge h k).1, fun k => (exec_read_env_ge h k).2⟩

end Sys2Proof.Machine


/-! ### What a step does -/

namespace Sys2Proof.Machine

/-! #### The registers an access reaches -/

/-- The word of the register space a register stands at (rule R41). -/
def Reg.index : Reg → Nat
  | .stg i => i
  | .snap i => 16 + i
  | .cmd => 0x20
  | .status => 0x21
  | .result => 0x22
  | .err => 0x23
  | .offset => 0x24
  | .trigOfs => 0x25
  | .relOfs => 0x26
  | .lastKey => 0x27
  | .bufSize u => 0x28 + u.index
  | .atkSize => 0x2B
  | .adSize => 0x2C
  | .relSize => 0x2D
  | .underruns => 0x2E
  | .peekAddr => 0x2F
  | .peekData => 0x30

theorem Reg.index_of_atIndex? {n : Nat} {r : Reg} (h : Reg.atIndex? n = some r) : n = r.index := by
  unfold Reg.atIndex? at h
  split at h
  · cases h; rfl
  · split at h
    · cases h
      simp only [Reg.index]
      omega
    · split at h <;> cases h <;> rfl

/-- An access that reaches a register is a word access at its one offset (rules R41, R64). -/
theorem regAt?_eq_some {width : AccessWidth} {offset : BitVec 12} {r : Reg}
    (h : regAt? width offset = some r) : width = .word ∧ offset.toNat = 4 * r.index := by
  unfold regAt? at h
  split at h
  · next hw =>
    have := Reg.index_of_atIndex? h
    exact ⟨hw.1, by omega⟩
  · cases h

/-! #### Everything a step can do -/

/-- The state left by a step that only takes its event off the schedule and labels itself. -/
def State.labelled (s : State) (l : Label) : State := { s with inputs := s.inputs.tail, label := l }

/-- `StepTo s t`: one of the things a step of SYNCORE can do leads from `s` to `t`. -/
inductive StepTo (s : State) : State → Prop where
  /-- Idle, a read, an ignored or bad write, a tick while `run = 0`: only the model's own fields move. -/
  | quiet (l : Label) : StepTo s (s.labelled l)
  /-- A write to STG. -/
  | storeStg {offset : BitVec 12} {v : Word} {rest : List Event} (i : Fin 16)
      (event : s.inputs = .write .word offset v :: rest) (at_stg : offset.toNat ≤ 0x03C) :
      StepTo s { s.labelled .written with stg := s.stg.set i v }
  /-- A write to ERR clears the bits written as 1. -/
  | clearErr {v : Word} {rest : List Event} (event : s.inputs = .write .word 0x08C v :: rest) :
      StepTo s { s.labelled .written with err := s.err &&& ~~~v }
  /-- A write to PEEKADDR. -/
  | storePeekAddr (v : Word) : StepTo s { s.labelled .written with peekAddr := v.setWidth 19 }
  /-- A write to CMD of a word that decodes. -/
  | command {w : Word} {i : Instr} {rest : List Event} {t : State}
      (event : s.inputs = .write .word 0x080 w :: rest) (decoded : decodeWord w = .ok i)
      (run : exec i (s.labelled .written) = .next t) : StepTo s t
  /-- A write to CMD of an illegal word. -/
  | illegal : StepTo s (s.labelled .written).reportIllegal
  /-- A tick while `run = 1`. -/
  | produce {accepted : Fin (Config.PERIOD_BYTES + 1)} {rest : List Event}
      (event : s.inputs = .tick accepted :: rest) (running : s.run = true) :
      StepTo s (produce accepted { s with inputs := rest })
  /-- A reset. -/
  | reset {rest : List Event} (event : s.inputs = .reset :: rest) :
      StepTo s { s.resetNow with inputs := rest, label := .resetDone }

theorem State.labelled_of_event {s : State} {e : Event} {rest : List Event} (h : s.inputs = e :: rest)
    (l : Label) : { s with inputs := rest, label := l } = s.labelled l := by
  rw [State.labelled, h]; rfl

/-- A write to CMD answers a next state. -/
theorem writeCmd_spec {s : State} {w : Word} {rest : List Event}
    (h : s.inputs = .write .word 0x080 w :: rest) :
    ∃ t, writeCmd w (s.labelled .written) = .next t ∧ StepTo s t := by
  cases hdec : decodeWord w with
  | ok i =>
    exact ⟨_, by rw [writeCmd, hdec]; exact exec_eq_report i _, .command h hdec (exec_eq_report i _)⟩
  | error e => exact ⟨_, by rw [writeCmd, hdec], .illegal⟩

theorem hostRead_spec {s : State} {width : AccessWidth} {offset : BitVec 12} {rest : List Event}
    (h : s.inputs = .read width offset :: rest) :
    ∃ t, hostRead width offset { s with inputs := rest } = .next t ∧ StepTo s t := by
  unfold hostRead
  split
  · exact ⟨_, rfl, by rw [State.labelled_of_event h]; exact .quiet _⟩
  · exact ⟨_, rfl, by rw [State.labelled_of_event h]; exact .quiet _⟩

theorem hostWrite_spec {s : State} {width : AccessWidth} {offset : BitVec 12} {v : Word}
    {rest : List Event} (h : s.inputs = .write width offset v :: rest) :
    ∃ t, hostWrite width offset v { s with inputs := rest } = .next t ∧ StepTo s t := by
  unfold hostWrite
  simp only [State.labelled_of_event h]
  split
  · next r hr =>
    obtain ⟨rfl, hoff⟩ := regAt?_eq_some hr
    by_cases hcmd : r = .cmd
    · subst hcmd
      obtain rfl : offset = 0x080 := BitVec.eq_of_toNat_eq hoff
      exact writeCmd_spec h
    · obtain ⟨i, rfl, e⟩ | ⟨rfl, e⟩ | ⟨rfl, e⟩ | e := regWrite_cases r v (s.labelled .written) hcmd
      · exact ⟨_, e, .storeStg i h (by rw [hoff, Reg.index]; omega)⟩
      · obtain rfl : offset = 0x08C := BitVec.eq_of_toNat_eq hoff
        exact ⟨_, e, .clearErr h⟩
      · exact ⟨_, e, .storePeekAddr v⟩
      · exact ⟨_, e, .quiet _⟩
  · exact ⟨_, rfl, .quiet _⟩

theorem servePeriodTick_spec {s : State} {accepted : Fin (Config.PERIOD_BYTES + 1)} {rest : List Event}
    (h : s.inputs = .tick accepted :: rest) :
    StepTo s (servePeriodTick accepted { s with inputs := rest }) := by
  unfold servePeriodTick
  split
  · next hrun => exact .produce h hrun
  · rw [State.labelled_of_event h]; exact .quiet _

/-- Every step answers a next state, by one of the cases of `StepTo` (rules R14, R75, R83). -/
theorem step_spec (s : State) : ∃ t, step s = .next t ∧ StepTo s t := by
  obtain ⟨hin, e⟩ | ⟨ev, rest, hin, e⟩ := step_cases s <;> rw [e]
  · have hidle : idleStep s = s.labelled .idle := by rw [State.labelled, hin, List.tail, ← hin]; rfl
    exact ⟨_, rfl, hidle ▸ .quiet _⟩
  · cases ev with
    | read width offset => exact hostRead_spec hin
    | write width offset v => exact hostWrite_spec hin
    | tick accepted => exact ⟨_, rfl, servePeriodTick_spec hin⟩
    | reset => exact ⟨_, rfl, .reset hin⟩

theorem canStep (s : State) : CanStep s :=
  let ⟨t, h, _⟩ := step_spec s
  ⟨t, h⟩

theorem StepTo.of_step {s t : State} (h : step s = .next t) : StepTo s t := by
  obtain ⟨t', h', ht⟩ := step_spec s
  obtain rfl := Host.Outcome.next.inj (h.symm.trans h')
  exact ht

end Sys2Proof.Machine


/-! ### The invariant, part by part

`Inv` falls into what concerns one oscillator, the envelope, and the registers a command or the host
writes. An update of one part touches that part of the invariant alone. -/

namespace Sys2Proof.Machine

/-- The invariant of one oscillator (rule R44 (a), (b)). -/
structure OscInv (u : OscUnit) (s : State) : Prop where
  size : s.oscSize.get u = 0 ∨ 2 ≤ s.oscSize.get u ∧ s.oscSize.get u ≤ Config.OSC_BUF_CAP
  unconfigured : s.oscSize.get u = 0 → s.act.osc.get u = OscParams.reset
  valid : s.oscSize.get u ≠ 0 → OscValid s u

/-- The invariant of the envelope (rule R44 (c), (d)). -/
structure EnvInv (s : State) : Prop where
  ad_size : s.adSize ≤ Config.ENV_AD_CAP
  atk_size : s.atkSize ≤ s.adSize
  rel_size : s.relSize ≤ Config.ENV_REL_CAP
  unconfigured : s.adSize = 0 → s.atkSize = 0 ∧ s.relSize = 0 ∧ s.act.env = State.reset.act.env
  valid : s.adSize ≠ 0 → EnvValid s

/-- The sound-producing parts of the invariant: the buffers, the oscillators and the envelope. -/
structure SoundInv (s : State) : Prop where
  mem_wf : s.mem.wf
  osc : ∀ u, OscInv u s
  env : EnvInv s

/-- The invariant of the registers (rule R44 (f) to (h)). -/
structure RegsInv (s : State) : Prop where
  last_key : s.lastKey.toNat < 128 ∨ s.lastKey = 0xFF
  snap_legal : SnapLegal s.snap
  result_bits : s.result &&& ~~~resultMask = 0
  err_bits : s.err &&& ~~~errMask = 0

theorem inv_iff (s : State) : Inv s ↔ SoundInv s ∧ RegsInv s := by
  constructor
  · intro h
    exact ⟨⟨h.mem_wf, fun u => ⟨h.osc_size u, h.osc_unconfigured u, h.osc_valid u⟩,
      h.ad_size, h.atk_size, h.rel_size, h.env_unconfigured, h.env_valid⟩,
      h.last_key, h.snap_legal, h.result_bits, h.err_bits⟩
  · rintro ⟨⟨hmem, hosc, henv⟩, hregs⟩
    exact ⟨hmem, fun u => (hosc u).size, fun u => (hosc u).unconfigured, fun u => (hosc u).valid,
      henv.ad_size, henv.atk_size, henv.rel_size, henv.unconfigured, henv.valid,
      hregs.last_key, hregs.snap_legal, hregs.result_bits, hregs.err_bits⟩

/-- The registers after reset meet the invariant (rule R45). -/
theorem reset_regsInv : RegsInv State.reset :=
  ⟨.inr rfl, by unfold SnapLegal; decide, rfl, rfl⟩

/-! #### Each part depends on its own state -/

theorem OscInv.congr {u : OscUnit} {s t : State} (h : OscInv u s) (same : SameOsc u t s) : OscInv u t := by
  obtain ⟨hparams, hsize, hbuf⟩ := same
  obtain ⟨size, unconfigured, valid⟩ := h
  refine ⟨by rwa [hsize], by rwa [hsize, hparams], fun hne => ?_⟩
  obtain ⟨hcheck, hread⟩ := valid (hsize ▸ hne)
  simp only [OscValid, State.actOsc, hparams, hsize, hbuf]
  exact ⟨hcheck, hread⟩

theorem EnvInv.congr {s t : State} (h : EnvInv s) (same : SameEnv t s) : EnvInv t := by
  obtain ⟨hparams, hatk, had, hrel, hadBuf, hrelBuf⟩ := same
  obtain ⟨ad_size, atk_size, rel_size, unconfigured, valid⟩ := h
  refine ⟨by rwa [had], by rwa [hatk, had], by rwa [hrel], by rwa [had, hatk, hrel, hparams], fun hne => ?_⟩
  obtain ⟨hcheck, hread⟩ := valid (had ▸ hne)
  simp only [EnvValid, State.envLengths, hparams, hatk, had, hrel, hadBuf, hrelBuf]
  exact ⟨hcheck, hread⟩

/-- A state with the same buffers, records and sizes keeps the sound parts of the invariant. -/
theorem SoundInv.of_eq {s t : State} (h : SoundInv s) (hact : t.act = s.act := by rfl)
    (hmem : t.mem = s.mem := by rfl) (hosc : t.oscSize = s.oscSize := by rfl)
    (hatk : t.atkSize = s.atkSize := by rfl) (had : t.adSize = s.adSize := by rfl)
    (hrel : t.relSize = s.relSize := by rfl) : SoundInv t where
  mem_wf := hmem ▸ h.mem_wf
  osc u := (h.osc u).congr ⟨by rw [hact], by rw [hosc], fun _ => by rw [hmem]⟩
  env := h.env.congr ⟨by rw [hact], hatk, had, hrel, fun _ => by rw [hmem], fun _ => by rw [hmem]⟩

/-- A part at its reset record meets the invariant, whatever its buffers read as. -/
theorem SoundInv.of_reset {s : State} (hact : s.act = State.reset.act) (hmem : s.mem.wf)
    (hosc : s.oscSize = State.reset.oscSize) (hatk : s.atkSize = 0) (had : s.adSize = 0)
    (hrel : s.relSize = 0) : SoundInv s := by
  have hsize : ∀ u, s.oscSize.get u = 0 := fun u => by rw [hosc]; cases u <;> rfl
  refine ⟨hmem, fun u => ⟨.inl (hsize u), fun _ => ?_, fun h => absurd (hsize u) h⟩, ?_⟩
  · rw [hact]; cases u <;> rfl
  · exact ⟨by omega, by omega, by omega, fun _ => ⟨hatk, hrel, by rw [hact]⟩, fun h => absurd had h⟩

/-! #### The two update procedures keep their part -/

theorem oscStore_valid {u : OscUnit} {new : OscRequest} {w : Wave} {n : Nat} (s : State)
    (hcheck : oscCheck u new = .ok (w, n)) (hw : new.waveWord = waveToWord w) :
    OscValid (oscStore u new w n s) u := by
  have hact : (oscStore u new w n s).actOsc u = new := by simp [State.actOsc, ← hw]
  unfold OscValid
  rw [hact]
  simp only [oscStore_act, oscStore_oscSize, PerUnit.get_set_same]
  exact ⟨hcheck, fun k hk => oscStore_read_lt u new w s hk⟩

theorem oscUpdate_oscInv (u : OscUnit) (new : OscRequest) {s : State} (h : OscInv u s) :
    OscInv u (oscUpdate u new s).2 := by
  obtain ⟨c, -, -, e⟩ | ⟨w, n, hcheck, hw, -, h2, hcap, e⟩ := oscUpdate_cases u new s <;> rw [e]
  · exact h
  · have hsize : (oscStore u new w n s).oscSize.get u = n := PerUnit.get_set_same _ _ _
    exact ⟨.inr (by rw [hsize]; exact ⟨h2, hcap⟩), fun h0 => by rw [hsize] at h0; omega,
      fun _ => oscStore_valid s hcheck hw⟩

theorem envStore_valid {p : EnvParams} {z : EnvLengths} (s : State) (hcheck : envCheck p = .ok z) :
    EnvValid (envStore p z s) := by
  have hz : (envStore p z s).envLengths = z := by simp [State.envLengths]
  unfold EnvValid
  rw [hz]
  exact ⟨hcheck, fun k hk => envStore_read_ad_lt p z s hk, fun k hk => envStore_read_rel_lt p z s hk⟩

theorem envUpdate_envInv (p : EnvParams) {s : State} (h : EnvInv s) : EnvInv (envUpdate p s).2 := by
  obtain ⟨c, -, -, e⟩ | ⟨z, hcheck, -, hpos, had, hrel, e⟩ := envUpdate_cases p s <;> rw [e]
  · exact h
  · refine ⟨had, ?_, hrel, fun h0 => ?_, fun _ => envStore_valid s hcheck⟩
    · rw [envStore_atkSize, envStore_adSize]; omega
    · rw [envStore_adSize] at h0; omega

/-! #### Every command keeps the invariant -/

theorem exec_soundInv {i : Instr} {s t : State} (hexec : exec i s = .next t) (h : SoundInv s) :
    SoundInv t where
  mem_wf := by rw [eq_report_of_exec hexec]; exact commandEffect_mem_wf i s h.mem_wf
  osc u := by
    obtain same | ⟨new, upd⟩ := exec_osc_cases hexec u
    · exact (h.osc u).congr same
    · exact (oscUpdate_oscInv u new (h.osc u)).congr upd
  env := by
    obtain same | ⟨p, upd⟩ := exec_env_cases hexec
    · exact h.env.congr same
    · exact (envUpdate_envInv p h.env).congr upd

/-- The image of ACT names legal waveforms and keeps the reserved bits 0 (rules R27, R44 (g)). -/
theorem image_legal (a : Act) : SnapLegal a.image := by
  have hwave : ∀ w : Wave, (waveToWord w).toNat < 3 := fun w => by cases w <;> decide
  have hflags : a.synth.flagsWord &&& ~~~0x00000003 = 0 := by
    unfold SynthParams.flagsWord
    cases a.synth.osc2SyncEnabled <;> cases a.synth.lfoEnabled <;> rfl
  exact ⟨hwave _, hwave _, hwave _, hflags⟩

/-- The key a command leaves in `lastKey` is the old one or one from 0 to 127 (rule R44 (f)). -/
theorem exec_lastKey {i : Instr} {s t : State} (hexec : exec i s = .next t) (hwf : i.wf = true)
    (h : s.lastKey.toNat < 128 ∨ s.lastKey = 0xFF) : t.lastKey.toNat < 128 ∨ t.lastKey = 0xFF := by
  rw [eq_report_of_exec hexec, State.report_lastKey, (commandEffect_sameRegs i s).last_key]
  cases i with
  | keyPress key vel =>
    obtain ⟨hkey, -⟩ : key < 128 ∧ vel < 128 := by simpa [Instr.wf] using hwf
    left
    show key % 2 ^ 8 < 128
    omega
  | _ => exact h

theorem exec_snapLegal {i : Instr} {s t : State} (hexec : exec i s = .next t) (h : SnapLegal s.snap) :
    SnapLegal t.snap := by
  rw [eq_report_of_exec hexec, State.report_snap, (commandEffect_sameRegs i s).snap]
  cases i with
  | snapshot => exact image_legal s.act
  | _ => exact h

/-- The assigned bits of RESULT are assigned in ERR too (rule R46). -/
theorem errMask_of_resultMask {r : Word} (h : r &&& ~~~resultMask = 0) : r &&& ~~~errMask = 0 := by
  have hsub : ~~~errMask = ~~~resultMask &&& ~~~errMask := by decide
  rw [hsub, ← BitVec.and_assoc, h]
  rfl

theorem illegal_masked : ErrClass.illegal.bit &&& ~~~resultMask = 0 := by decide

theorem exec_regsInv {i : Instr} {s t : State} (hexec : exec i s = .next t) (hwf : i.wf = true)
    (h : RegsInv s) : RegsInv t := by
  obtain ⟨herr, hresult⟩ := commandErrAccumulates i s t hexec
  refine ⟨exec_lastKey hexec hwf h.last_key, exec_snapLegal hexec h.snap_legal, hresult, ?_⟩
  rw [herr]
  exact or_masked h.err_bits (errMask_of_resultMask hresult)

/-! #### Every step keeps the invariant -/

theorem produce_soundInv (accepted : Nat) {s : State} (h : SoundInv s) : SoundInv (produce accepted s) := by
  unfold produce
  obtain ⟨-, e⟩ | ⟨-, e⟩ := produceState_cases accepted s <;> rw [e] <;> exact h.of_eq

theorem produce_regsInv (accepted : Nat) {s : State} (h : RegsInv s) : RegsInv (produce accepted s) := by
  obtain ⟨hkey, hsnap, hresult, herr⟩ := h
  unfold produce
  obtain ⟨-, e⟩ | ⟨-, e⟩ := produceState_cases accepted s <;> rw [e]
  · exact ⟨hkey, hsnap, hresult, or_masked herr rfl⟩
  · exact ⟨hkey, hsnap, hresult, herr⟩

theorem StepTo.soundInv {s t : State} (hst : StepTo s t) (h : SoundInv s) : SoundInv t := by
  cases hst with
  | command event decoded run => exact exec_soundInv run h.of_eq
  | produce event running => exact produce_soundInv _ h.of_eq
  | reset event => exact .of_reset rfl State.reset_mem_wf rfl rfl rfl rfl
  | quiet | storeStg | clearErr | storePeekAddr | illegal => exact h.of_eq

theorem StepTo.regsInv {s t : State} (hst : StepTo s t) (h : RegsInv s) : RegsInv t := by
  obtain ⟨hkey, hsnap, hresult, herr⟩ := h
  cases hst with
  | command event decoded run =>
    exact exec_regsInv run (spells_of_decodeWord decoded).wf ⟨hkey, hsnap, hresult, herr⟩
  | illegal => exact ⟨hkey, hsnap, illegal_masked, or_masked herr (errMask_of_resultMask illegal_masked)⟩
  | clearErr event =>
    refine ⟨hkey, hsnap, hresult, ?_⟩
    rw [BitVec.and_assoc, BitVec.and_comm (~~~_), ← BitVec.and_assoc, herr]
    exact BitVec.zero_and
  | produce event running => exact produce_regsInv _ ⟨hkey, hsnap, hresult, herr⟩
  | reset event =>
    obtain ⟨hkey, hsnap, hresult, herr⟩ := reset_regsInv
    exact ⟨hkey, hsnap, hresult, herr⟩
  | quiet | storeStg | storePeekAddr => exact ⟨hkey, hsnap, hresult, herr⟩

theorem StepTo.inv {s t : State} (hst : StepTo s t) (h : Inv s) : Inv t := by
  obtain ⟨hsound, hregs⟩ := (inv_iff s).1 h
  exact (inv_iff t).2 ⟨hst.soundInv hsound, hst.regsInv hregs⟩

/-- Settles O59: the sound parts of the invariant are kept since a command runs each update procedure on its
own part, the registers' part since every word a command stores in them is a legal one. -/
theorem stepKeepsInvariant : Obligations.StepKeepsInvariant :=
  fun _ _ h hstep => (StepTo.of_step hstep).inv h

theorem Reaches.inv {s t : State} (hr : Reaches s t) (h : Inv s) : Inv t := by
  induction hr with
  | refl => exact h
  | step _ hstep ih => exact stepKeepsInvariant _ _ ih hstep

/-- Settles O60: by induction on the run, with `canStep` in every state. -/
theorem invariantStatesAreSafe : Obligations.InvariantStatesAreSafe :=
  fun _ h t hr => ⟨canStep t, hr.inv h⟩

/-- Settles O58: nothing is configured after reset, and the registers hold legal values. -/
theorem resetMeetsInvariant : Obligations.ResetMeetsInvariant :=
  (inv_iff State.reset).2 ⟨.of_reset rfl State.reset_mem_wf rfl rfl rfl rfl, reset_regsInv⟩

end Sys2Proof.Machine


/-! ### Which event changes what -/

namespace Sys2Proof.Machine

theorem produce_curOfs (accepted : Nat) (s : State) : (produce accepted s).curOfs = s.curOfs + 441 := by
  unfold produce
  obtain ⟨-, e⟩ | ⟨-, e⟩ := produceState_cases accepted s <;> rw [e] <;> rfl

/-- PRODUCE writes none of the host's and the commands' registers (rules R200, R208). -/
theorem produce_frame (accepted : Nat) (s : State) :
    (produce accepted s).stg = s.stg ∧ (produce accepted s).snap = s.snap ∧
    (produce accepted s).lastKey = s.lastKey ∧ (produce accepted s).run = s.run := by
  unfold produce
  obtain ⟨-, e⟩ | ⟨-, e⟩ := produceState_cases accepted s <;> rw [e] <;> exact ⟨rfl, rfl, rfl, rfl⟩

theorem getLsbD_or_left {x : Word} (r : Word) {b : Nat} (h : x.getLsbD b = true) :
    (x ||| r).getLsbD b = true := by
  rw [BitVec.getLsbD_or, h, Bool.true_or]

/-- PRODUCE clears no bit of ERR (rule R209). -/
theorem produce_err (accepted : Nat) {s : State} {b : Nat} (h : s.err.getLsbD b = true) :
    (produce accepted s).err.getLsbD b = true := by
  unfold produce
  obtain ⟨-, e⟩ | ⟨-, e⟩ := produceState_cases accepted s <;> rw [e]
  · exact getLsbD_or_left _ h
  · exact h

/-- The word of START is the one of rule R222. -/
theorem word_of_decode_start {w : Word} (h : decodeWord w = .ok .start) : w = 0x01000000 :=
  (spells_of_decodeWord h).encode_eq.symm

/-- The word of SNAPSHOT is the one of rule R227. -/
theorem word_of_decode_snapshot {w : Word} (h : decodeWord w = .ok .snapshot) : w = 0x41000000 :=
  (spells_of_decodeWord h).encode_eq.symm

theorem StepTo.curOfs_cases {s t : State} (hst : StepTo s t) (h : t.curOfs ≠ s.curOfs) :
    (∃ accepted rest, s.inputs = .tick accepted :: rest ∧ s.run = true ∧ t.curOfs = s.curOfs + 441) ∨
    ∃ rest, s.inputs = .reset :: rest ∧ t.curOfs = 0 := by
  cases hst with
  | produce event running => exact .inl ⟨_, _, event, running, produce_curOfs _ _⟩
  | reset event => exact .inr ⟨_, event, rfl⟩
  | command event decoded run =>
    obtain ⟨-, hcur, -⟩ := commandRegisterFrame _ _ _ run
    exact absurd hcur h
  | quiet | storeStg | clearErr | storePeekAddr | illegal => exact absurd rfl h

theorem StepTo.run_cases {s t : State} (hst : StepTo s t) (h : t.run ≠ s.run) :
    (t.run = true ∧ ∃ rest, s.inputs = .write .word 0x080 0x01000000 :: rest) ∨
    (t.run = false ∧ ∃ rest, s.inputs = .reset :: rest) := by
  cases hst with
  | reset event => exact .inr ⟨rfl, _, event⟩
  | @command w i rest t event decoded run =>
    obtain ⟨-, -, -, -, -, -, -, -, hrun, -⟩ := commandRegisterFrame _ _ _ run
    obtain rfl : i = .start := by_contra fun hi => h (hrun hi)
    obtain rfl := word_of_decode_start decoded
    exact .inl ⟨by rw [eq_report_of_exec run]; rfl, _, event⟩
  | produce event running =>
    obtain ⟨-, -, -, hrun⟩ := produce_frame _ _
    exact absurd hrun h
  | quiet | storeStg | clearErr | storePeekAddr | illegal => exact absurd rfl h

/-- Settles O55: of everything a step can do, PRODUCE and a reset alone write `curOfs`, START and a reset
alone write `run`. -/
theorem sequencingStateWriters : Obligations.SequencingStateWriters := by
  intro s t h
  have hst := StepTo.of_step h
  refine ⟨hst.curOfs_cases, fun hs ht => ?_, fun hs ht => ?_⟩
  · obtain ⟨-, hev⟩ | ⟨hf, -⟩ := hst.run_cases (by simp [hs, ht])
    · exact hev
    · simp [ht] at hf
  · obtain ⟨hf, -⟩ | ⟨-, hev⟩ := hst.run_cases (by simp [hs, ht])
    · simp [ht] at hf
    · exact hev

/-- Settles O56: every report only ORs into ERR; the write to ERR and a reset are what is left. -/
theorem errBitsSticky : Obligations.ErrBitsSticky := by
  intro s t b h hs ht
  cases StepTo.of_step h with
  | @clearErr v rest event =>
    have hb : b < 32 := BitVec.lt_of_getLsbD hs
    exact .inl ⟨v, rest, event, by simpa [hs, hb] using ht⟩
  | reset event => exact .inr ⟨_, event⟩
  | command event decoded run =>
    obtain ⟨herr, -⟩ := commandErrAccumulates _ _ _ run
    have kept : t.err.getLsbD b = true := by rw [herr]; exact getLsbD_or_left _ hs
    exact absurd (kept.symm.trans ht) (by decide)
  | illegal => exact absurd ((getLsbD_or_left _ hs).symm.trans ht) (by decide)
  | @produce accepted rest event running =>
    have kept := produce_err accepted (s := { s with inputs := rest }) hs
    exact absurd (kept.symm.trans ht) (by decide)
  | quiet | storeStg | storePeekAddr => exact absurd (hs.symm.trans ht) (by decide)

/-- Settles O57: each register has one case of `StepTo` that writes it, a reset apart. -/
theorem onlyTheirWriterChanges : Obligations.OnlyTheirWriterChanges := by
  intro s t h hreset
  cases StepTo.of_step h with
  | reset event => exact absurd ⟨_, event⟩ hreset
  | storeStg i event at_stg =>
    exact ⟨fun _ => ⟨_, _, _, event, at_stg⟩, absurd rfl, absurd rfl, absurd rfl⟩
  | @command w i rest t event decoded run =>
    obtain ⟨hstg, -, hunder, -, -, -, -, hsnap, -, -, -, hkey⟩ := commandRegisterFrame _ _ _ run
    refine ⟨absurd hstg, fun hne => ?_, fun hne => ?_, absurd hunder⟩
    · obtain rfl : i = .snapshot := by_contra fun hi => hne (hsnap hi)
      obtain rfl := word_of_decode_snapshot decoded
      exact ⟨_, event⟩
    · obtain ⟨k, v, rfl⟩ : ∃ k v, i = .keyPress k v :=
        by_contra fun hi => hne (hkey fun k v e => hi ⟨k, v, e⟩).1
      have spells := spells_of_decodeWord decoded
      obtain ⟨hk, hv⟩ : k < 128 ∧ v < 128 := by simpa [Instr.wf] using spells.wf
      exact ⟨k, v, _, hk, hv, by rw [spells.encode_eq]; exact event⟩
  | produce event running =>
    obtain ⟨hstg, hsnap, hkey, -⟩ := produce_frame _ _
    exact ⟨absurd hstg, absurd hsnap, absurd hkey, fun _ => ⟨_, _, event, running⟩⟩
  | quiet | clearErr | storePeekAddr | illegal =>
    exact ⟨absurd rfl, absurd rfl, absurd rfl, absurd rfl⟩

end Sys2Proof.Machine


/-! ### The register space: CMD, STATUS and the PEEK window; the values after reset -/

namespace Sys2Proof.Machine

/-- Settles O5: offset 0x080 is CMD, and a word that decodes there is run. -/
theorem stepRunsDecodedCommand : Obligations.StepRunsDecodedCommand := by
  intro s w i rest hdec
  have hreg : regAt? .word 0x080 = some .cmd := rfl
  simp only [step, serve, hostWrite, hreg, regWrite, writeCmd, hdec]

/-- No register shows the schedule. -/
theorem regRead_inputs (r : Reg) (s : State) (rest : List Event) :
    regRead r { s with inputs := rest } = regRead r s := by
  cases r <;> rfl

/-- A word read at a register's offset answers what the register holds (rule R66). -/
theorem readAnswers_of_regAt? {off : Nat} {r : Reg} (h : regAt? .word (BitVec.ofNat 12 off) = some r)
    (s : State) : ReadAnswers s off (regRead r s) := by
  intro rest
  simp only [step, serve, hostRead, h, regRead_inputs]

/-- A word write at a register's offset is `RegWrite` of that register (rule R67). -/
theorem writeLeaves_of_regAt? {off : Nat} {r : Reg} (h : regAt? .word (BitVec.ofNat 12 off) = some r)
    {s t : State} {v : Word}
    (hw : ∀ rest l, regWrite r v { s with inputs := rest, label := l } =
      .next { t with inputs := rest, label := l }) : WriteLeaves s off v t := by
  intro rest
  simp only [step, serve, hostWrite, h, hw]

/-! #### STATUS -/

theorem statusBit_getLsbD (b : Bool) {pos : Nat} (hpos : pos < 32) (k : Nat) :
    (statusBit b pos).getLsbD k = (b && decide (k = pos)) := by
  cases b with
  | false => simp [statusBit]
  | true =>
    simp only [statusBit, if_true, BitVec.getLsbD_ofNat, Nat.testBit_two_pow, Bool.true_and]
    grind

/-- Bit `k` of STATUS is the one state bit placed there (rule R36). -/
theorem statusWord_getLsbD (s : State) (k : Nat) :
    (statusWord s).getLsbD k =
      (s.run && decide (k = 0) || (s.oscSize.osc1 != 0) && decide (k = 1) ||
        (s.oscSize.osc2 != 0) && decide (k = 2) || (s.oscSize.lfo != 0) && decide (k = 3) ||
        (s.adSize != 0) && decide (k = 4)) := by
  simp only [statusWord, BitVec.getLsbD_or]
  rw [statusBit_getLsbD _ (by decide), statusBit_getLsbD _ (by decide), statusBit_getLsbD _ (by decide),
    statusBit_getLsbD _ (by decide), statusBit_getLsbD _ (by decide)]

/-- Settles O10: STATUS is a read of other state with one bit a source. -/
theorem statusBits : Obligations.StatusBits := by
  refine ⟨rfl, fun s => ⟨readAnswers_of_regAt? (r := .status) rfl s,
    fun v => writeLeaves_of_regAt? (r := .status) rfl fun _ _ => rfl, ?_, ?_, ?_, ?_, ?_, fun k hk => ?_⟩⟩
  case refine_6 =>
    have h0 : k ≠ 0 := by omega
    have h1 : k ≠ 1 := by omega
    have h2 : k ≠ 2 := by omega
    have h3 : k ≠ 3 := by omega
    have h4 : k ≠ 4 := by omega
    simp [statusWord_getLsbD, h0, h1, h2, h3, h4]
  all_goals
    rw [statusWord_getLsbD]
    simp

/-! #### The PEEK window -/

theorem setWidth_setWidth_peekAddr (v : Word) : (v.setWidth 19).setWidth 32 = v &&& 0x0007FFFF := by
  apply BitVec.eq_of_toNat_eq
  have hmask : (0x0007FFFF : Word).toNat = 2 ^ 19 - 1 := rfl
  rw [BitVec.toNat_and, hmask, Nat.and_two_pow_sub_one_eq_mod]
  simp only [BitVec.toNat_setWidth]
  omega

/-- `sel` is bits 18:16 of the word written to PEEKADDR (rule R38), -/
theorem peekSel_of_peekAddr (s : State) (v : Word) :
    State.peekSel { s with peekAddr := v.setWidth 19 } = v.toNat / 2 ^ 16 % 8 := by
  simp only [State.peekSel, BitVec.toNat_setWidth]
  omega

/-- and `idx` its bits 15:0. -/
theorem peekIdx_of_peekAddr (s : State) (v : Word) :
    State.peekIdx { s with peekAddr := v.setWidth 19 } = v.toNat % 2 ^ 16 := by
  simp only [State.peekIdx, BitVec.toNat_setWidth]
  omega

theorem capacity_eq (b : BufId) : Config.capacity b = 4410 := by cases b <;> rfl

/-- Settles O11: the two fields of PEEKADDR are those of the word written, and each of the eight values of
`sel` names its buffer or none. -/
theorem peekWindow : Obligations.PeekWindow := by
  refine ⟨rfl, fun s v => ⟨writeLeaves_of_regAt? (r := .peekAddr) rfl fun _ _ => rfl, ?_,
    writeLeaves_of_regAt? (r := .peekData) rfl fun _ _ => rfl, ?_⟩⟩
  · have h := readAnswers_of_regAt? (off := 0x0BC) (r := .peekAddr) rfl { s with peekAddr := v.setWidth 19 }
    rwa [regRead, setWidth_setWidth_peekAddr] at h
  · have h := readAnswers_of_regAt? (off := 0x0C0) (r := .peekData) rfl { s with peekAddr := v.setWidth 19 }
    rw [regRead, peekData, peekSel_of_peekAddr, peekIdx_of_peekAddr] at h
    convert h using 1
    have hsel : v.toNat / 2 ^ 16 % 8 < 8 := Nat.mod_lt _ (by decide)
    generalize v.toNat / 2 ^ 16 % 8 = sel at hsel ⊢
    interval_cases sel <;> simp [bufOfSel?, capacity_eq]

/-! #### Reset -/

theorem reset_read (b : BufId) (k : Nat) :
    State.reset.mem.read b k = Config.freeEntry State.reset.mem.epoch b k := by
  cases b with
  | osc u => cases u <;> rfl
  | ad | rel => rfl

/-- Settles O12: every register of the reset state is written out with its value; no buffer entry has been
written. -/
theorem resetValues : Obligations.ResetValues :=
  ⟨by decide, by decide, fun u => by cases u <;> rfl, rfl, rfl, fun u => by cases u <;> rfl, rfl, rfl,
    rfl, reset_read, rfl, rfl, rfl, rfl, rfl, rfl, rfl, rfl, rfl⟩

end Sys2Proof.Machine


/-! ### The register map from both sides, and the byte layout of a period -/

namespace Sys2Proof.Machine

/-- The mapped registers end below 0x0C4 (rules R41, R68). -/
theorem Reg.index_lt (r : Reg) : r.index < 0x31 := by
  cases r with
  | stg i | snap i => simp only [Reg.index]; omega
  | bufSize u => cases u <;> decide
  | cmd | status | result | err | offset | trigOfs | relOfs | lastKey | atkSize | adSize | relSize |
    underruns | peekAddr | peekData => decide

/-- A word access at a register's offset reaches that register; the converse of `regAt?_eq_some`. -/
theorem regAt?_index (r : Reg) {off : Nat} (h : off = 4 * r.index) :
    regAt? .word (BitVec.ofNat 12 off) = some r := by
  subst h
  cases r with
  | stg i | snap i => revert i; decide
  | bufSize u => cases u <;> decide
  | cmd | status | result | err | offset | trigOfs | relOfs | lastKey | atkSize | adSize | relSize |
    underruns | peekAddr | peekData => decide

theorem readAnswers_index (r : Reg) (s : State) {off : Nat} (h : off = 4 * r.index) :
    ReadAnswers s off (regRead r s) :=
  readAnswers_of_regAt? (regAt?_index r h) s

/-- Settles O7: each offset of the map is four times the index of its register, whose read is `regRead`. -/
theorem registerReadsAnswer : Obligations.RegisterReadsAnswer := fun s =>
  ⟨fun i => readAnswers_index (.stg i) s rfl,
    fun i => readAnswers_index (.snap i) s (by simp only [Reg.index]; omega),
    readAnswers_index .cmd s rfl, readAnswers_index .status s rfl, readAnswers_index .result s rfl,
    readAnswers_index .err s rfl, readAnswers_index .offset s rfl, readAnswers_index .trigOfs s rfl,
    readAnswers_index .relOfs s rfl, readAnswers_index .lastKey s rfl,
    readAnswers_index (.bufSize .osc1) s rfl, readAnswers_index (.bufSize .osc2) s rfl,
    readAnswers_index (.bufSize .lfo) s rfl, readAnswers_index .atkSize s rfl,
    readAnswers_index .adSize s rfl, readAnswers_index .relSize s rfl, readAnswers_index .underruns s rfl,
    readAnswers_index .peekAddr s rfl, readAnswers_index .peekData s rfl⟩

/-! #### Writes -/

/-- The registers that ignore a write (rule R67). -/
def Reg.ignoresWrites : Reg → Bool
  | .stg _ | .cmd | .err | .peekAddr => false
  | _ => true

theorem regWrite_ignored {r : Reg} (hr : r.ignoresWrites = true) (v : Word) (s : State) :
    regWrite r v s = .next s := by
  have hcmd : r ≠ .cmd := by rintro rfl; cases hr
  obtain ⟨i, rfl, -⟩ | ⟨rfl, -⟩ | ⟨rfl, -⟩ | h := regWrite_cases r v s hcmd
  · cases hr
  · cases hr
  · cases hr
  · exact h

theorem writeLeaves_ignored {off : Nat} {r : Reg} (h : regAt? .word (BitVec.ofNat 12 off) = some r)
    (hr : r.ignoresWrites = true) (s : State) (v : Word) : WriteLeaves s off v s :=
  writeLeaves_of_regAt? h fun _ _ => regWrite_ignored hr v _

/-- The offsets rule R67 names as ignoring a write each hold a register that does. -/
theorem ignored_offsets :
    ∀ off ∈ [0x084, 0x088, 0x090, 0x094, 0x098, 0x09C, 0x0A0, 0x0A4, 0x0A8, 0x0AC, 0x0B0, 0x0B4, 0x0B8, 0x0C0],
      (regAt? .word (BitVec.ofNat 12 off)).any Reg.ignoresWrites = true := by
  decide

theorem writeCmd_illegal {w : Word} {e : DecodeError} (h : decodeWord w = .error e) (s : State) :
    writeCmd w s = .next s.reportIllegal := by
  rw [writeCmd, h]

/-- Masking to bits 18:0 before the store to PEEKADDR changes nothing (rule R38). -/
theorem setWidth_masked_peekAddr (v : Word) : (v &&& 0x0007FFFF).setWidth 19 = v.setWidth 19 := by
  rw [← setWidth_setWidth_peekAddr, BitVec.setWidth_setWidth_of_le _ (by decide), BitVec.setWidth_eq]

/-- Settles O8: each offset of the map reaches its register, and `regWrite` has one case for each clause. -/
theorem registerWritesLeave : Obligations.RegisterWritesLeave := by
  intro s v
  refine ⟨fun i => ?stg, fun i => ?snap, ?err, ?peekAddr, fun off hoff => ?ignored,
    fun i rest hdec => stepRunsDecodedCommand s v i rest hdec, fun e hdec => ?illegal⟩
  case stg => exact writeLeaves_of_regAt? (regAt?_index (.stg i) rfl) fun _ _ => rfl
  case snap => exact writeLeaves_ignored (regAt?_index (.snap i) (by simp only [Reg.index]; omega)) rfl s v
  case err => exact writeLeaves_of_regAt? (regAt?_index .err rfl) fun _ _ => rfl
  case peekAddr =>
    rw [setWidth_masked_peekAddr]
    exact writeLeaves_of_regAt? (regAt?_index .peekAddr rfl) fun _ _ => rfl
  case ignored =>
    obtain ⟨r, hreg, hr⟩ := (Option.any_eq_true _ _).mp (ignored_offsets off hoff)
    exact writeLeaves_ignored hreg hr s v
  case illegal =>
    exact writeLeaves_of_regAt? (regAt?_index .cmd rfl) fun _ _ => writeCmd_illegal hdec _

/-! #### Bad accesses -/

/-- What rules R64 and R68 call a bad or unmapped access reaches no register. -/
theorem regAt?_eq_none {width : AccessWidth} {off : BitVec 12}
    (h : width ≠ .word ∨ off.toNat % 4 ≠ 0 ∨ 0x0C4 ≤ off.toNat) : regAt? width off = none := by
  cases hreg : regAt? width off with
  | none => rfl
  | some r =>
    obtain ⟨hwidth, hoff⟩ := regAt?_eq_some hreg
    have hindex := r.index_lt
    obtain hw | hbad := h
    · exact absurd hwidth hw
    · omega

/-- Settles O9: the access reaches no register, so the read and the write are answered with a bus error. -/
theorem badAccessChangesNothing : Obligations.BadAccessChangesNothing := by
  intro s width off v rest hbad
  have hreg := regAt?_eq_none hbad
  constructor
  · simp only [step, serve, hostRead, hreg]
  · simp only [step, serve, hostWrite, hreg]

/-! #### No stuck state -/

/-- Settles O14: `canStep`, which rests on every arm of `exec` answering a next state. -/
theorem everyStepAnswersNext : Obligations.EveryStepAnswersNext := canStep

/-! #### The bytes of a period -/

theorem periodBytes_cons (q : I16) (out : List I16) :
    periodBytes (q :: out) = q.extractLsb' 0 8 :: q.extractLsb' 8 8 :: periodBytes out := rfl

/-- Each value of a period takes two places of its bytes, in order. -/
theorem periodBytes_getElem? (out : List I16) (n : Nat) :
    (periodBytes out)[2 * n]? = out[n]?.map (·.extractLsb' 0 8) ∧
    (periodBytes out)[2 * n + 1]? = out[n]?.map (·.extractLsb' 8 8) := by
  induction out generalizing n with
  | nil => exact ⟨rfl, rfl⟩
  | cons q out ih =>
    rw [periodBytes_cons]
    cases n with
    | zero => exact ⟨rfl, rfl⟩
    | succ n => exact ih n

theorem lowByte_eq (q : I16) : q.extractLsb' 0 8 = BitVec.ofNat 8 (q.toNat % 256) := by
  apply BitVec.eq_of_toNat_eq
  simp

theorem highByte_eq (q : I16) : q.extractLsb' 8 8 = BitVec.ofNat 8 (q.toNat / 256) := by
  apply BitVec.eq_of_toNat_eq
  simp [Nat.shiftRight_eq_div_pow]

/-- Settles O43: value `n` is at places `2n` and `2n + 1`, its bits 7:0 first. -/
theorem periodByteLayout : Obligations.PeriodByteLayout := by
  intro out n q hq
  obtain ⟨hlow, hhigh⟩ := periodBytes_getElem? out n
  rw [hlow, hhigh, hq, ← lowByte_eq, ← highByte_eq]
  exact ⟨rfl, rfl⟩

end Sys2Proof.Machine


/-! ### Decoding the encoding, and the mask and match columns (rules R92 to R95) -/

namespace Sys2Proof

/-! #### A word that spells a command decodes to it

One lemma a format of rule R91, the converse of `decodeZ_ok` to `decodeKV_ok`. -/

theorem decodeZ_of_fields {w : Word} (i : Instr) (ha : field w 23 16 = 0) (hb : field w 15 8 = 0)
    (hl : field w 7 0 = 0) : decodeZ w i = .ok i := by
  simp only [field] at ha hb hl
  exact if_pos (by simp only [field]; omega)

theorem OscUnit.ofIndex?_index (u : OscUnit) : OscUnit.ofIndex? u.index = some u := by
  cases u <;> rfl

theorem OscUnit.index_lt (u : OscUnit) : u.index < 3 := by
  cases u <;> decide

theorem decodeU_of_fields {w : Word} (mk : OscUnit → Instr) (u : OscUnit) (ha : field w 23 16 = u.index)
    (hb : field w 15 8 = 0) (hl : field w 7 0 = 0) : decodeU w mk = .ok (mk u) := by
  have hu := u.index_lt
  simp only [field] at ha hb hl
  have hzero : field w 23 18 = 0 ∧ field w 15 0 = 0 := by simp only [field]; omega
  have hunit : field w 17 16 = u.index := by simp only [field]; omega
  rw [decodeU, if_pos hzero, hunit, OscUnit.ofIndex?_index]

theorem decodeF_of_fields {w : Word} (mk : Bool → Instr) (f : Bool) (ha : field w 23 16 = f.toNat)
    (hb : field w 15 8 = 0) (hl : field w 7 0 = 0) : decodeF w mk = .ok (mk f) := by
  have hf := f.toNat_lt
  simp only [field] at ha hb hl
  have hzero : field w 23 17 = 0 ∧ field w 15 0 = 0 := by simp only [field]; omega
  have hflag : field w 16 16 = f.toNat := by simp only [field]; omega
  rw [decodeF, if_pos hzero, hflag]
  cases f <;> rfl

theorem decodeK_of_fields {w : Word} (mk : Nat → Instr) {key : Nat} (hk : key < 128)
    (ha : field w 23 16 = key) (hb : field w 15 8 = 0) (hl : field w 7 0 = 0) :
    decodeK w mk = .ok (mk key) := by
  simp only [field] at ha hb hl
  have hzero : field w 23 23 = 0 ∧ field w 15 0 = 0 := by simp only [field]; omega
  have hkey : field w 22 16 = key := by simp only [field]; omega
  rw [decodeK, if_pos hzero, hkey]

theorem decodeKV_of_fields {w : Word} (mk : Nat → Nat → Instr) {key vel : Nat} (hk : key < 128)
    (hv : vel < 128) (ha : field w 23 16 = key) (hb : field w 15 8 = vel) (hl : field w 7 0 = 0) :
    decodeKV w mk = .ok (mk key vel) := by
  simp only [field] at ha hb hl
  have hzero : field w 23 23 = 0 ∧ field w 15 15 = 0 ∧ field w 7 0 = 0 := by simp only [field]; omega
  have hkey : field w 22 16 = key := by simp only [field]; omega
  have hvel : field w 14 8 = vel := by simp only [field]; omega
  rw [decodeKV, if_pos hzero, hkey, hvel]

/-- The converse of `spells_of_decodeWord`. -/
theorem Spells.decodeWord_eq {w : Word} {i : Instr} (h : Spells w i) : decodeWord w = .ok i := by
  obtain ⟨hwf, hop, ha, hb, hl⟩ := h
  rw [decodeWord, hop]
  cases i with
  | nop | start | envUpdate | setNoise | applyFull | snapshot => exact decodeZ_of_fields _ ha hb hl
  | oscUpdate u | oscSetAmp u | oscSetFreq u | oscSetWave u => exact decodeU_of_fields _ u ha hb hl
  | setLfoEn f | setSyncEn f => exact decodeF_of_fields _ f ha hb hl
  | keyPress key vel =>
    obtain ⟨hk, hv⟩ : key < 128 ∧ vel < 128 := by simpa [Instr.wf] using hwf
    exact decodeKV_of_fields _ hk hv ha hb hl
  | keyRelease key => exact decodeK_of_fields _ (by simpa [Instr.wf] using hwf) ha hb hl

theorem spells_encode {i : Instr} (hwf : i.wf = true) : Spells (encode i) i :=
  let ⟨hop, ha, hb, hl⟩ := encode_fields i hwf
  ⟨hwf, hop, ha, hb, hl⟩

theorem wordOfBytes_fields (w : Word) :
    wordOfBytes (BitVec.ofNat 8 (field w 7 0)) (BitVec.ofNat 8 (field w 15 8))
      (BitVec.ofNat 8 (field w 23 16)) (BitVec.ofNat 8 (field w 31 24)) = w := by
  have hw := w.isLt
  apply BitVec.eq_of_toNat_eq
  simp only [wordOfBytes, field, BitVec.toNat_ofNat]
  omega

/-- `decodeBytes` with the function that joins four bytes left open. The kernel cannot evaluate `decodeWord` at
a sum of unknown bytes; with `join` unknown it does not try. -/
def decodeBytesVia (join : Byte → Byte → Byte → Byte → Word) :
    List Byte → Except DecodeError (Instr × List Byte)
  | b0 :: b1 :: b2 :: b3 :: rest =>
    match decodeWord (join b0 b1 b2 b3) with
    | .ok i => .ok (i, rest)
    | .error e => .error e
  | _ => .error .truncated

theorem decodeBytes_eq_via (bytes : List Byte) : decodeBytes bytes = decodeBytesVia wordOfBytes bytes :=
  rfl

theorem decodeBytesVia_cons (join : Byte → Byte → Byte → Byte → Word) {b0 b1 b2 b3 : Byte} {i : Instr}
    (h : decodeWord (join b0 b1 b2 b3) = .ok i) (rest : List Byte) :
    decodeBytesVia join (b0 :: b1 :: b2 :: b3 :: rest) = .ok (i, rest) := by
  simp only [decodeBytesVia, h]

theorem decodeBytes_cons {b0 b1 b2 b3 : Byte} {i : Instr}
    (h : decodeWord (wordOfBytes b0 b1 b2 b3) = .ok i) (rest : List Byte) :
    decodeBytes (b0 :: b1 :: b2 :: b3 :: rest) = .ok (i, rest) := by
  rw [decodeBytes_eq_via, decodeBytesVia_cons wordOfBytes h]

/-- The byte decoder reads the word the first four bytes hold and leaves the rest (rule R62). -/
theorem decodeBytes_bytesOfWord {w : Word} {i : Instr} (h : decodeWord w = .ok i) (rest : List Byte) :
    decodeBytes (bytesOfWord w ++ rest) = .ok (i, rest) :=
  decodeBytes_cons ((wordOfBytes_fields w).symm ▸ h) rest

/-- Settles O1: a command's word spells it, and a word that spells a command decodes to it. -/
theorem decodeEncodeRoundTrip : Obligations.DecodeEncodeRoundTrip := fun i rest hwf =>
  have hdec : decodeWord (encode i) = .ok i := (spells_encode hwf).decodeWord_eq
  ⟨hdec, decodeBytes_bytesOfWord hdec rest⟩

/-- Settles O2: a word that decodes spells its command, and two words that spell one command are equal. -/
theorem encodeDecodeRoundTrip : Obligations.EncodeDecodeRoundTrip := fun _ _ hdec =>
  have hspells := spells_of_decodeWord hdec
  ⟨hspells.wf, hspells.encode_eq⟩

/-- Settles O4: the legal words are the encodings of their commands; the illegal ones are run through the
decoder. -/
theorem sampleWordsDecode : Obligations.SampleWordsDecode :=
  have legal (i : Instr) (hwf : i.wf = true) : decodeWord (encode i) = .ok i :=
    (decodeEncodeRoundTrip i [] hwf).1
  ⟨legal .nop rfl, legal .start rfl, legal (.oscUpdate .osc2) rfl, legal (.oscSetFreq .lfo) rfl,
    legal .envUpdate rfl, legal (.setSyncEn true) rfl, legal (.keyPress 69 127) rfl,
    legal (.keyRelease 70) rfl, by decide⟩

/-! #### The mask of a row, byte by byte (rule R93) -/

theorem field_and (v w : Word) (hi lo : Nat) :
    field (v &&& w) hi lo = field v hi lo &&& field w hi lo := by
  simp only [field, BitVec.toNat_and, Nat.and_div_two_pow, Nat.and_mod_two_pow]

/-- A mask of the bits from `k` to `n - 1` finds no bit of an `n`-bit number exactly when that fits in `k`
bits. -/
theorem and_highBits_eq_zero_iff {x n k : Nat} (hx : x < 2 ^ n) (hk : k ≤ n) :
    x &&& (2 ^ n - 2 ^ k) = 0 ↔ x < 2 ^ k := by
  have hmask : 2 ^ n - 2 ^ k = 2 ^ k * (2 ^ (n - k) - 1) := by
    rw [Nat.mul_sub, ← Nat.pow_add, Nat.add_sub_cancel' hk, Nat.mul_one]
  have hquot : x / 2 ^ k < 2 ^ (n - k) :=
    Nat.div_lt_of_lt_mul (by rwa [← Nat.pow_add, Nat.add_sub_cancel' hk])
  have hlow : (x &&& (2 ^ n - 2 ^ k)) % 2 ^ k = 0 := by
    rw [Nat.and_mod_two_pow, hmask, Nat.mul_mod_right, Nat.and_zero]
  have hhigh : (x &&& (2 ^ n - 2 ^ k)) / 2 ^ k = x / 2 ^ k := by
    rw [Nat.and_div_two_pow, hmask, Nat.mul_div_cancel_left _ (Nat.two_pow_pos k),
      Nat.and_two_pow_sub_one_of_lt_two_pow hquot]
  rw [← Nat.div_add_mod (x &&& (2 ^ n - 2 ^ k)) (2 ^ k), hlow, hhigh]
  simp [Nat.div_eq_zero_iff]

/-- How many low bits of the operand byte `a` a row leaves open (rule R91). -/
def Instr.widthA : Instr → Nat
  | .oscUpdate _ | .oscSetAmp _ | .oscSetFreq _ | .oscSetWave _ => 2
  | .setLfoEn _ | .setSyncEn _ => 1
  | .keyPress _ _ | .keyRelease _ => 7
  | .nop | .start | .envUpdate | .setNoise | .applyFull | .snapshot => 0

/-- How many low bits of the operand byte `b` a row leaves open: `vel`, or none (rule R91). -/
def Instr.widthB : Instr → Nat
  | .keyPress _ _ => 7
  | _ => 0

theorem Instr.width_le (i : Instr) : i.widthA ≤ 8 ∧ i.widthB ≤ 8 := by
  cases i <;> simp [Instr.widthA, Instr.widthB]

/-- The mask column of rule R93 is 1 but at the bits a row leaves open. -/
theorem tableMask_fields (i : Instr) :
    field i.tableMask 31 24 = 2 ^ 8 - 1 ∧ field i.tableMask 23 16 = 2 ^ 8 - 2 ^ i.widthA ∧
      field i.tableMask 15 8 = 2 ^ 8 - 2 ^ i.widthB ∧ field i.tableMask 7 0 = 2 ^ 8 - 1 := by
  cases i <;> (simp only [Instr.tableMask, Instr.widthA, Instr.widthB]; decide)

/-- The match column of rule R93 is the opcode and nothing else. -/
theorem tableMatch_fields (i : Instr) :
    field i.tableMatch 31 24 = i.op ∧ field i.tableMatch 23 16 = 0 ∧
      field i.tableMatch 15 8 = 0 ∧ field i.tableMatch 7 0 = 0 := by
  cases i <;> (simp only [Instr.tableMatch, Instr.op]; decide)

theorem word_eq_iff_fields {v w : Word} :
    v = w ↔ field v 31 24 = field w 31 24 ∧ field v 23 16 = field w 23 16 ∧
      field v 15 8 = field w 15 8 ∧ field v 7 0 = field w 7 0 :=
  ⟨fun h => h ▸ ⟨rfl, rfl, rfl, rfl⟩, fun ⟨h3, h2, h1, h0⟩ => word_eq_of_fields h3 h2 h1 h0⟩

/-- `w` carries the opcode of the row of `i`, no bit but those the row leaves open, and no reserved unit. -/
def OnRow (w : Word) (i : Instr) : Prop :=
  (field w 31 24 = i.op ∧ field w 23 16 < 2 ^ i.widthA ∧ field w 15 8 < 2 ^ i.widthB ∧ field w 7 0 = 0) ∧
    (i.formatU = true → field w 17 16 ≠ 3)

/-- The test of rule R93, read byte by byte. -/
theorem and_tableMask_eq_iff (w : Word) (i : Instr) :
    w &&& i.tableMask = i.tableMatch ↔
      field w 31 24 = i.op ∧ field w 23 16 < 2 ^ i.widthA ∧ field w 15 8 < 2 ^ i.widthB ∧
        field w 7 0 = 0 := by
  obtain ⟨hmask3, hmask2, hmask1, hmask0⟩ := tableMask_fields i
  obtain ⟨hmatch3, hmatch2, hmatch1, hmatch0⟩ := tableMatch_fields i
  obtain ⟨hwidthA, hwidthB⟩ := i.width_le
  rw [word_eq_iff_fields, field_and, field_and, field_and, field_and, hmask3, hmask2, hmask1, hmask0,
    hmatch3, hmatch2, hmatch1, hmatch0, Nat.and_two_pow_sub_one_of_lt_two_pow (field_lt w 31 24),
    and_highBits_eq_zero_iff (field_lt w 23 16) hwidthA, and_highBits_eq_zero_iff (field_lt w 15 8) hwidthB,
    Nat.and_two_pow_sub_one_of_lt_two_pow (field_lt w 7 0)]

/-! #### A row's mnemonic names the row -/

/-- The command of the same row with every operand 0. -/
def Instr.zeroed : Instr → Instr
  | .oscUpdate _ => .oscUpdate .osc1
  | .oscSetAmp _ => .oscSetAmp .osc1
  | .oscSetFreq _ => .oscSetFreq .osc1
  | .oscSetWave _ => .oscSetWave .osc1
  | .setLfoEn _ => .setLfoEn false
  | .setSyncEn _ => .setSyncEn false
  | .keyPress _ _ => .keyPress 0 0
  | .keyRelease _ => .keyRelease 0
  | .nop => .nop
  | .start => .start
  | .envUpdate => .envUpdate
  | .setNoise => .setNoise
  | .applyFull => .applyFull
  | .snapshot => .snapshot

/-- One command a row of rule R93. -/
def tableRows : List Instr :=
  [.nop, .start, .oscUpdate .osc1, .oscSetAmp .osc1, .oscSetFreq .osc1, .oscSetWave .osc1, .envUpdate,
    .setLfoEn false, .setSyncEn false, .setNoise, .applyFull, .snapshot, .keyPress 0 0, .keyRelease 0]

theorem Instr.zeroed_mem_tableRows (i : Instr) : i.zeroed ∈ tableRows := by
  cases i <;> simp [Instr.zeroed, tableRows]

theorem Instr.mnemonic_zeroed (i : Instr) : i.zeroed.mnemonic = i.mnemonic := by
  cases i <;> rfl

theorem mnemonic_injOn_tableRows :
    ∀ i ∈ tableRows, ∀ j ∈ tableRows, i.mnemonic = j.mnemonic → i = j := by
  decide

theorem Instr.zeroed_eq_of_mnemonic_eq {i j : Instr} (h : i.mnemonic = j.mnemonic) :
    i.zeroed = j.zeroed :=
  mnemonic_injOn_tableRows _ i.zeroed_mem_tableRows _ j.zeroed_mem_tableRows
    (by rw [i.mnemonic_zeroed, j.mnemonic_zeroed, h])

theorem onRow_zeroed (w : Word) (i : Instr) : OnRow w i.zeroed ↔ OnRow w i := by
  cases i <;> rfl

/-- Commands of one mnemonic have the same row. -/
theorem OnRow.of_mnemonic_eq {w : Word} {i j : Instr} (h : OnRow w j) (hm : j.mnemonic = i.mnemonic) :
    OnRow w i := by
  rw [← onRow_zeroed, ← Instr.zeroed_eq_of_mnemonic_eq hm, onRow_zeroed]
  exact h

/-! #### The words of a row are those that spell its commands -/

theorem Instr.operand_lt {i : Instr} (hwf : i.wf = true) :
    i.operandA < 2 ^ i.widthA ∧ i.operandB < 2 ^ i.widthB := by
  cases i with
  | nop | start | envUpdate | setNoise | applyFull | snapshot => decide
  | oscUpdate u | oscSetAmp u | oscSetFreq u | oscSetWave u => cases u <;> decide
  | setLfoEn f | setSyncEn f => cases f <;> decide
  | keyPress | keyRelease =>
    simpa [Instr.wf, Instr.operandA, Instr.operandB, Instr.widthA, Instr.widthB] using hwf

theorem field_unit_eq (w : Word) : field w 17 16 = field w 23 16 % 4 := by
  simp only [field]
  omega

theorem Instr.operandA_lt_three {i : Instr} (hU : i.formatU = true) : i.operandA < 3 := by
  cases i with
  | oscUpdate u | oscSetAmp u | oscSetFreq u | oscSetWave u => exact u.index_lt
  | nop | start | envUpdate | setLfoEn | setSyncEn | setNoise | applyFull | snapshot | keyPress |
    keyRelease => cases hU

theorem Spells.onRow {w : Word} {i : Instr} (h : Spells w i) : OnRow w i := by
  obtain ⟨hA, hB⟩ := Instr.operand_lt h.wf
  refine ⟨⟨h.op, h.operandA ▸ hA, h.operandB ▸ hB, h.low⟩, fun hU => ?_⟩
  have hlt := Instr.operandA_lt_three hU
  rw [field_unit_eq, h.operandA]
  omega

theorem OscUnit.exists_index_eq {n : Nat} (h : n < 3) : ∃ u : OscUnit, u.index = n := by
  interval_cases n
  · exact ⟨.osc1, rfl⟩
  · exact ⟨.osc2, rfl⟩
  · exact ⟨.lfo, rfl⟩

/-- A word of a row decodes: the bits the row leaves open are operands of one of its commands. -/
theorem OnRow.exists_decode {w : Word} {i : Instr} (h : OnRow w i) :
    ∃ j, decodeWord w = .ok j ∧ j.mnemonic = i.mnemonic := by
  obtain ⟨⟨hop, hA, hB, hlow⟩, hunit⟩ := h
  rw [decodeWord, hop]
  cases i with
  | nop | start | envUpdate | setNoise | applyFull | snapshot =>
    exact ⟨_, decodeZ_of_fields _ (Nat.lt_one_iff.mp hA) (Nat.lt_one_iff.mp hB) hlow, rfl⟩
  | oscUpdate | oscSetAmp | oscSetFreq | oscSetWave =>
    have hlt : field w 23 16 < 4 := hA
    have hne : field w 23 16 % 4 ≠ 3 := field_unit_eq w ▸ hunit rfl
    obtain ⟨u, hu⟩ := OscUnit.exists_index_eq (n := field w 23 16) (by omega)
    exact ⟨_, decodeU_of_fields _ u hu.symm (Nat.lt_one_iff.mp hB) hlow, rfl⟩
  | setLfoEn | setSyncEn =>
    exact ⟨_, decodeF_of_fields _ _ (toNat_beq_one hA).symm (Nat.lt_one_iff.mp hB) hlow, rfl⟩
  | keyPress => exact ⟨_, decodeKV_of_fields _ hA hB rfl rfl hlow, rfl⟩
  | keyRelease => exact ⟨_, decodeK_of_fields _ hA rfl (Nat.lt_one_iff.mp hB) hlow, rfl⟩

/-- Settles O3: both sides say that the word is on the row, the left by the command it spells, the right by
the mask. -/
theorem wordSpellsRowExactly : Obligations.WordSpellsRowExactly := by
  intro w i
  have hleft : (∃ j, decodeWord w = .ok j ∧ j.mnemonic = i.mnemonic) ↔ OnRow w i := by
    refine ⟨?_, OnRow.exists_decode⟩
    rintro ⟨j, hdec, hm⟩
    exact (spells_of_decodeWord hdec).onRow.of_mnemonic_eq hm
  rw [hleft, and_tableMask_eq_iff, OnRow]

end Sys2Proof


/-! ### The report of an illegal word (rule R96) -/

namespace Sys2Proof.Machine

/-- Settles O6: offset 0x080 is CMD, and an illegal word there is reported. -/
theorem illegalWordReported : Obligations.IllegalWordReported := fun s w _ rest hdec =>
  have hleaves : WriteLeaves s 0x080 w
      { s with result := 0x00000010, err := s.err ||| 0x00000010 } :=
    writeLeaves_of_regAt? (regAt?_index .cmd rfl) fun _ _ => writeCmd_illegal hdec _
  hleaves rest

end Sys2Proof.Machine


/-! ### Rounding once to binary32 (rules R120, R121 and R123) -/

namespace Sys2Proof.Machine

/-! #### The two magnitudes beside an exact one -/

/-- The 24 bits `roundMag` keeps of `n / d`, before it rounds. -/
def truncQuot (n d : Nat) : Nat := n / (d * 2 ^ roundExp n d)

/-- The pattern of the largest magnitude not above `n / d` units. -/
def truncMag (n d : Nat) : Nat := roundExp n d * 2 ^ 23 + truncQuot n d

/-- The magnitude of the pattern with exponent `e` and `q` units in its last place; with `q = 2^24` the carry
out of the fraction runs into the exponent. -/
theorem magUnits_scaled {e q : Nat} (hq : q ≤ 2 ^ 24) (he : 0 < e → 2 ^ 23 ≤ q) :
    magUnits (e * 2 ^ 23 + q) = q * 2 ^ e := by
  rcases Nat.lt_or_ge q (2 ^ 23) with hsub | hnorm
  · have he0 : e = 0 := by omega
    have hfield : (e * 2 ^ 23 + q) / 2 ^ 23 = 0 := by omega
    rw [magUnits, if_pos hfield, he0]
    simp
  · obtain rfl | hlt := Nat.eq_or_lt_of_le hq
    · have hfield : (e * 2 ^ 23 + 2 ^ 24) / 2 ^ 23 = e + 2 := by omega
      have hfrac : (e * 2 ^ 23 + 2 ^ 24) % 2 ^ 23 = 0 := by omega
      rw [magUnits, hfield, hfrac, if_neg (by omega), show e + 2 - 1 = e + 1 from rfl, pow_succ]
      ring
    · have hfield : (e * 2 ^ 23 + q) / 2 ^ 23 = e + 1 := by omega
      have hfrac : 2 ^ 23 + (e * 2 ^ 23 + q) % 2 ^ 23 = q := by omega
      rw [magUnits, hfield, hfrac, if_neg (by omega), Nat.add_sub_cancel]

theorem truncQuot_bounds (n d : Nat) :
    truncQuot n d < 2 ^ 24 ∧ (0 < roundExp n d → 2 ^ 23 ≤ truncQuot n d) := by
  obtain ⟨hlt, hge⟩ := roundMag_quotient_bounds (q := n / d) (e := roundExp n d) rfl
  rw [truncQuot, ← Nat.div_div_eq_div_mul]
  refine ⟨?_, fun he => ?_⟩
  · rw [Nat.div_lt_iff_lt_mul (Nat.two_pow_pos _), ← pow_add]
    exact hlt
  · rw [Nat.le_div_iff_mul_le (Nat.two_pow_pos _), ← pow_add]
    exact hge he

theorem magUnits_truncMag (n d : Nat) : magUnits (truncMag n d) = truncQuot n d * 2 ^ roundExp n d := by
  obtain ⟨hlt, hge⟩ := truncQuot_bounds n d
  rw [truncMag, magUnits_scaled hlt.le hge]

theorem magUnits_truncMag_succ (n d : Nat) :
    magUnits (truncMag n d + 1) = (truncQuot n d + 1) * 2 ^ roundExp n d := by
  obtain ⟨hlt, hge⟩ := truncQuot_bounds n d
  rw [truncMag, add_assoc, magUnits_scaled hlt fun he => (hge he).trans (Nat.le_succ _)]

theorem truncMag_mod_two (n d : Nat) : truncMag n d % 2 = truncQuot n d % 2 := by
  rw [truncMag]
  omega

theorem magUnits_truncMag_mul_le (n d : Nat) : magUnits (truncMag n d) * d ≤ n := by
  rw [magUnits_truncMag, truncQuot, mul_assoc, mul_comm (2 ^ _) d]
  exact Nat.div_mul_le_self n _

theorem lt_magUnits_truncMag_succ_mul {n d : Nat} (hd : 0 < d) : n < magUnits (truncMag n d + 1) * d := by
  rw [magUnits_truncMag_succ, truncQuot, mul_assoc, mul_comm (2 ^ _) d]
  exact Nat.lt_mul_of_div_lt (Nat.lt_succ_self _) (Nat.mul_pos hd (Nat.two_pow_pos _))

/-- Twice the midpoint of the two magnitudes beside `n / d`, times `d`. -/
def midpoint (n d : Nat) : Nat := (magUnits (truncMag n d) + magUnits (truncMag n d + 1)) * d

/-- `n / d` is rounded down: it lies below the midpoint of the magnitudes beside it, or on it while the lower
pattern is even. -/
abbrev RoundsDown (n d : Nat) : Prop := 2 * n < midpoint n d ∨ 2 * n = midpoint n d ∧ truncMag n d % 2 = 0

theorem roundMag_eq (n d : Nat) :
    roundMag n d = min (if RoundsDown n d then truncMag n d else truncMag n d + 1) infMag := by
  have hmid : midpoint n d = (2 * truncQuot n d + 1) * (d * 2 ^ roundExp n d) := by
    rw [midpoint, magUnits_truncMag, magUnits_truncMag_succ]
    ring
  have hdm : d * 2 ^ roundExp n d * truncQuot n d + n % (d * 2 ^ roundExp n d) = n := Nat.div_add_mod _ _
  have hdown : (2 * (n % (d * 2 ^ roundExp n d)) < d * 2 ^ roundExp n d ∨
      2 * (n % (d * 2 ^ roundExp n d)) = d * 2 ^ roundExp n d ∧ truncQuot n d % 2 = 0) ↔ RoundsDown n d := by
    rw [RoundsDown, hmid, truncMag_mod_two]
    generalize d * 2 ^ roundExp n d = w at hdm ⊢
    generalize n % w = r at hdm ⊢
    have : (2 * truncQuot n d + 1) * w = 2 * (w * truncQuot n d) + w := by ring
    omega
  have hdiv : divNearestEven n (d * 2 ^ roundExp n d) =
      if RoundsDown n d then truncQuot n d else truncQuot n d + 1 :=
    if_congr hdown rfl rfl
  rw [roundMag, hdiv]
  split <;> simp only [truncMag, add_assoc]

/-! #### Overflow -/

/-- Twice the bound of overflow, in units: the largest finite magnitude and the one after it. -/
theorem magUnits_overflow : magUnits (infMag - 1) + magUnits infMag = (2 ^ 25 - 1) * 2 ^ 253 := by decide

theorem roundMag_eq_infMag_iff {n d : Nat} (hd : 0 < d) :
    roundMag n d = infMag ↔ (2 ^ 25 - 1) * 2 ^ 253 * d ≤ 2 * n := by
  have hlo := magUnits_truncMag_mul_le n d
  have hhi := lt_magUnits_truncMag_succ_mul (n := n) hd
  have hodd : (infMag - 1) % 2 = 1 := by decide
  rw [roundMag_eq, min_eq_right_iff, ← magUnits_overflow]
  rcases lt_trichotomy (truncMag n d) (infMag - 1) with hlt | heq | hgt
  · have hle : magUnits (truncMag n d + 1) ≤ magUnits (infMag - 1) := magUnits_mono (by omega)
    have hle' : magUnits (infMag - 1) ≤ magUnits infMag := magUnits_mono (by omega)
    constructor
    · intro h
      split at h <;> omega
    · intro h
      nlinarith
  · have hsucc : infMag - 1 + 1 = infMag := by decide
    simp only [RoundsDown, midpoint, heq, hsucc, hodd]
    split <;> omega
  · have hle : magUnits infMag ≤ magUnits (truncMag n d) := magUnits_mono (by omega)
    have hle' : magUnits (infMag - 1) ≤ magUnits infMag := magUnits_mono (by omega)
    constructor
    · intro _
      nlinarith
    · intro _
      split <;> omega

/-! #### The nearest finite pattern -/

theorem magUnits_lt_of_lt {m n : Nat} (h : m < n) (hn : n ≤ infMag) : magUnits m < magUnits n := by
  refine lt_of_le_of_ne (magUnits_mono h.le) fun heq => h.ne ?_
  rw [← roundMag_magUnits one_pos (h.le.trans hn), ← roundMag_magUnits one_pos hn, heq]

/-- Between two neighbours the nearer one is nearest among all values not strictly between them. -/
theorem abs_lower_le {lo hi x z : ℚ} (hlo : lo ≤ x) (hhi : x ≤ hi) (hmid : 2 * x ≤ lo + hi)
    (hz : z ≤ lo ∨ hi ≤ z) :
    |lo - x| ≤ |z - x| ∧ (|lo - x| = |z - x| → z ≠ lo → 2 * x = lo + hi) := by
  rw [abs_of_nonpos (by linarith)]
  rcases hz with hz | hz
  · rw [abs_of_nonpos (by linarith)]
    exact ⟨by linarith, fun heq hne => absurd (by linarith) hne⟩
  · rw [abs_of_nonneg (by linarith)]
    exact ⟨by linarith, fun heq _ => by linarith⟩

theorem abs_upper_le {lo hi x z : ℚ} (hlo : lo ≤ x) (hhi : x ≤ hi) (hmid : lo + hi ≤ 2 * x)
    (hz : z ≤ lo ∨ hi ≤ z) :
    |hi - x| ≤ |z - x| ∧ (|hi - x| = |z - x| → z ≠ hi → 2 * x = lo + hi) := by
  rw [abs_of_nonneg (by linarith)]
  rcases hz with hz | hz
  · rw [abs_of_nonpos (by linarith)]
    exact ⟨by linarith, fun heq _ => by linarith⟩
  · rw [abs_of_nonneg (by linarith)]
    exact ⟨by linarith, fun heq hne => absurd (by linarith) hne⟩

/-- No finite value lies strictly between the magnitudes of two neighbouring patterns. -/
theorem units_not_between (m : Nat) (p : F32) : units p ≤ magUnits m ∨ (magUnits (m + 1) : Int) ≤ units p := by
  unfold units
  split
  · exact .inl (by omega)
  · rcases Nat.lt_or_ge m (fmag p) with h | h
    · exact .inr (by exact_mod_cast magUnits_mono h)
    · exact .inl (by exact_mod_cast magUnits_mono h)

/-- A magnitude rounded to a finite pattern is nearest among all finite values, and even in a tie. -/
theorem magUnits_roundMag_nearest {n d : Nat} (hd : 0 < d) (hfin : roundMag n d < infMag) (p : F32) :
    |(magUnits (roundMag n d) : ℚ) - n / d| ≤ |(units p : ℚ) - n / d| ∧
      (|(magUnits (roundMag n d) : ℚ) - n / d| = |(units p : ℚ) - n / d| →
        (units p : ℚ) ≠ magUnits (roundMag n d) → roundMag n d % 2 = 0) := by
  have hd' : (0 : ℚ) < d := by exact_mod_cast hd
  have hlo : (magUnits (truncMag n d) : ℚ) ≤ n / d := by
    rw [le_div_iff₀ hd']
    exact_mod_cast magUnits_truncMag_mul_le n d
  have hhi : (n / d : ℚ) ≤ magUnits (truncMag n d + 1) := by
    rw [div_le_iff₀ hd']
    exact_mod_cast (lt_magUnits_truncMag_succ_mul hd).le
  have hz : (units p : ℚ) ≤ magUnits (truncMag n d) ∨ (magUnits (truncMag n d + 1) : ℚ) ≤ units p := by
    exact_mod_cast units_not_between (truncMag n d) p
  have hmid : (magUnits (truncMag n d) + magUnits (truncMag n d + 1) : ℚ) = (midpoint n d : ℕ) / d := by
    rw [eq_div_iff hd'.ne']
    simp [midpoint]
  have htwice : (2 * (n / d) : ℚ) = (2 * n : ℕ) / d := by
    push_cast
    ring
  have htie : (2 * (n / d) : ℚ) = magUnits (truncMag n d) + magUnits (truncMag n d + 1) →
      2 * n = midpoint n d := by
    rw [hmid, htwice, div_left_inj' hd'.ne']
    exact_mod_cast id
  have heq : roundMag n d = if RoundsDown n d then truncMag n d else truncMag n d + 1 := by
    rw [roundMag_eq] at hfin ⊢
    exact min_eq_left (by omega)
  rw [heq]
  split
  case isTrue hdown =>
    have hle : (2 * (n / d) : ℚ) ≤ magUnits (truncMag n d) + magUnits (truncMag n d + 1) := by
      have : 2 * n ≤ midpoint n d := by omega
      rw [hmid, htwice]
      gcongr
    obtain ⟨hnear, heven⟩ := abs_lower_le hlo hhi hle hz
    refine ⟨hnear, fun hdist hne => ?_⟩
    have := htie (heven hdist hne)
    omega
  case isFalse hup =>
    have hle : (magUnits (truncMag n d) + magUnits (truncMag n d + 1) : ℚ) ≤ 2 * (n / d) := by
      have : midpoint n d ≤ 2 * n := by omega
      rw [hmid, htwice]
      gcongr
    obtain ⟨hnear, heven⟩ := abs_upper_le hlo hhi hle hz
    refine ⟨hnear, fun hdist hne => ?_⟩
    have := htie (heven hdist hne)
    omega

/-! #### `RoundsTo` -/

theorem units_fpack {sign : Bool} {m : Nat} (h : m ≤ infMag) :
    units (fpack sign m) = if sign then -(magUnits m : Int) else magUnits m := by
  rw [units, absUnits, fsign_fpack h, fmag_fpack h]

theorem fneg_fpack {sign : Bool} {m : Nat} (h : m ≤ infMag) : fneg (fpack sign m) = fpack (!sign) m :=
  f32_ext (by simp [h]) (by simp [h])

theorem isFinite_fneg {a : F32} : isFinite (fneg a) ↔ isFinite a := by
  rw [isFinite, fmag_fneg, isFinite]

@[simp] theorem fneg_fneg (a : F32) : fneg (fneg a) = a :=
  f32_ext (by simp) (by simp)

theorem getLsbD_zero_fneg (a : F32) : (fneg a).getLsbD 0 = a.getLsbD 0 := by
  rw [fneg, BitVec.getLsbD_xor, show BitVec.getLsbD (0x80000000 : F32) 0 = false by decide, Bool.xor_false]

theorem getLsbD_zero_fpack {m : Nat} (h : m ≤ infMag) : (fpack false m).getLsbD 0 = decide (m % 2 = 1) := by
  rw [BitVec.getLsbD, toNat_fpack h, Nat.testBit_zero]
  rfl

theorem abs_value_sub (p : F32) (y : ℚ) : |value p - y / 2 ^ 149| = |(units p : ℚ) - y| / 2 ^ 149 := by
  rw [value, ← sub_div, abs_div, abs_of_pos (by positivity : (0 : ℚ) < 2 ^ 149)]

/-- Rounding is symmetric about 0. -/
theorem RoundsTo.neg {r : F32} {x : ℚ} (h : RoundsTo r x) : RoundsTo (fneg r) (-x) := by
  have hdist (p : F32) : |value p - -x| = |value (fneg p) - x| := by
    rw [value_fneg, ← abs_neg, neg_sub', neg_neg]
  unfold RoundsTo at h ⊢
  rw [abs_neg]
  split at h
  case isTrue hbound =>
    have hx : x ≠ 0 := fun h0 => by norm_num [h0, overflowBound] at hbound
    rw [if_pos hbound, fmag_fneg, fsign_fneg]
    refine ⟨h.1, ?_⟩
    rw [Bool.not_eq_true', ← Bool.not_eq_true, h.2]
    constructor
    · intro hnot
      have := lt_of_le_of_ne (not_lt.1 hnot) hx.symm
      linarith
    · intro hneg
      linarith
  case isFalse hbound =>
    obtain ⟨hfin, hneg, hpos, hnear⟩ := h
    rw [if_neg hbound, isFinite_fneg, fsign_fneg]
    refine ⟨hfin, fun hx => ?_, fun hx => ?_, fun p hp => ?_⟩
    · rw [hpos (by linarith)]; rfl
    · rw [hneg (by linarith)]; rfl
    · obtain ⟨hle, htie⟩ := hnear (fneg p) (isFinite_fneg.2 hp)
      rw [hdist, hdist, fneg_fneg, getLsbD_zero_fneg]
      refine ⟨hle, fun heq hne => htie heq fun hval => hne ?_⟩
      rw [value_fneg] at hval ⊢
      linarith

theorem roundsTo_fpack_false {n d : Nat} (hd : 0 < d) :
    RoundsTo (fpack false (roundMag n d)) (n / d / 2 ^ 149) := by
  have hd' : (0 : ℚ) < d := by exact_mod_cast hd
  have hx : (0 : ℚ) ≤ n / d / 2 ^ 149 := by positivity
  have hle := roundMag_le n d
  have hbound : overflowBound ≤ |(n / d / 2 ^ 149 : ℚ)| ↔ roundMag n d = infMag := by
    rw [roundMag_eq_infMag_iff hd, abs_of_nonneg hx, overflowBound, le_div_iff₀ (by positivity),
      le_div_iff₀ hd', ← Nat.cast_le (α := ℚ)]
    push_cast
    constructor <;> intro h <;> linarith
  unfold RoundsTo
  split
  case isTrue h =>
    rw [fmag_fpack hle, fsign_fpack hle]
    exact ⟨hbound.1 h, by simpa using hx⟩
  case isFalse h =>
    have hfin : roundMag n d < infMag := lt_of_le_of_ne hle (mt hbound.2 h)
    have hunits : units (fpack false (roundMag n d)) = magUnits (roundMag n d) := units_fpack hle
    refine ⟨by rwa [isFinite, fmag_fpack hle], fun hneg => absurd hx (not_le.2 hneg),
      fun _ => fsign_fpack hle, fun p _ => ?_⟩
    obtain ⟨hnear, htie⟩ := magUnits_roundMag_nearest hd hfin p
    rw [abs_value_sub, abs_value_sub, hunits, getLsbD_zero_fpack hle]
    refine ⟨by simpa using div_le_div_of_nonneg_right hnear (by positivity), fun heq hne => ?_⟩
    have heven := htie (by simpa using heq) fun h => hne (by simp [value, hunits, h])
    simp [heven]

/-- A sign and a rounded magnitude are the exact value rounded once. -/
theorem roundsTo_fpack (sign : Bool) {n d : Nat} (hd : 0 < d) :
    RoundsTo (fpack sign (roundMag n d)) ((if sign then -(n / d : ℚ) else n / d) / 2 ^ 149) := by
  cases sign
  · exact roundsTo_fpack_false hd
  · have h := (roundsTo_fpack_false (n := n) hd).neg
    rw [fneg_fpack (roundMag_le n d)] at h
    simpa [neg_div] using h

/-! #### The operations on finite operands -/

theorem value_eq (a : F32) :
    value a = (if fsign a then -(absUnits a : ℚ) else absUnits a) / 2 ^ 149 := by
  rw [value, units]
  split <;> simp

theorem absUnits_ne_zero {a : F32} (h : isZero a = false) : absUnits a ≠ 0 := by
  simp only [isZero, decide_eq_false_iff_not] at h
  exact (magUnits_pos (Nat.pos_of_ne_zero h)).ne'

/-- A zero of either sign is the exact value 0 rounded. -/
theorem roundsTo_zero (sign : Bool) : RoundsTo (fpack sign 0) 0 := by
  have hround : roundMag 0 1 = 0 := by decide
  simpa [hround] using roundsTo_fpack sign (n := 0) one_pos

theorem cast_oneUnit : (oneUnit : ℚ) = 2 ^ 149 := by norm_num [oneUnit]

theorem addWith_roundsTo {a b : F32} (op : FloatOp) (na nb : F32) (ha : isFinite a) (hb : isFinite b) :
    RoundsTo (addWith op na nb a b) (value a + value b) := by
  have hsum : value a + value b = ((units a + units b : Int) : ℚ) / 2 ^ 149 := by
    rw [value, value, ← add_div]
    push_cast
    rfl
  simp only [addWith, isNaN_of_isFinite ha, isNaN_of_isFinite hb, isInf_of_isFinite ha, isInf_of_isFinite hb,
    Bool.or_false, Bool.false_eq_true, if_false]
  rw [hsum]
  split
  case isTrue hzero =>
    simpa [hzero] using roundsTo_zero (fsign a && fsign b)
  case isFalse =>
    have h := roundsTo_fpack (decide (units a + units b < 0)) (n := (units a + units b).natAbs) one_pos
    generalize units a + units b = x at h ⊢
    have habs : (x.natAbs : ℚ) = |(x : ℚ)| := by rw [Nat.cast_natAbs, Int.cast_abs]
    rcases lt_or_ge x 0 with hneg | hpos
    · simpa [habs, hneg, abs_of_neg (Int.cast_lt_zero.2 hneg : (x : ℚ) < 0)] using h
    · simpa [habs, not_lt.2 hpos, abs_of_nonneg (Int.cast_nonneg hpos : (0 : ℚ) ≤ x)] using h

/-- The sign of a product is the exclusive or of the signs. -/
theorem signed_mul (s t : Bool) (x y : ℚ) :
    (if s then -x else x) * (if t then -y else y) = if s != t then -(x * y) else x * y := by
  cases s <;> cases t <;> simp

theorem signed_div (s t : Bool) (x y : ℚ) :
    (if s then -x else x) / (if t then -y else y) = if s != t then -(x / y) else x / y := by
  cases s <;> cases t <;> simp [neg_div, div_neg]

theorem fmul_roundsTo {a b : F32} (ha : isFinite a) (hb : isFinite b) :
    RoundsTo (fmul a b) (value a * value b) := by
  simp only [fmul, isNaN_of_isFinite ha, isNaN_of_isFinite hb, isInf_of_isFinite ha, isInf_of_isFinite hb,
    Bool.or_false, Bool.false_eq_true, if_false]
  have h := roundsTo_fpack (fsign a != fsign b) (n := absUnits a * absUnits b) (d := oneUnit) (by decide)
  convert h using 1
  rw [value_eq, value_eq, div_mul_div_comm, signed_mul, cast_oneUnit, Nat.cast_mul]
  split <;> ring

theorem fdiv_roundsTo {a b : F32} (ha : isFinite a) (hb : isFinite b) (hz : isZero b = false) :
    RoundsTo (fdiv a b) (value a / value b) := by
  simp only [fdiv, isNaN_of_isFinite ha, isNaN_of_isFinite hb, isInf_of_isFinite ha, isInf_of_isFinite hb, hz,
    Bool.or_false, Bool.false_eq_true, if_false]
  have hb0 := absUnits_ne_zero hz
  have h := roundsTo_fpack (fsign a != fsign b) (n := absUnits a * oneUnit) (Nat.pos_of_ne_zero hb0)
  convert h using 1
  have hunit : (2 ^ 149 : ℚ) ≠ 0 := by positivity
  rw [value_eq, value_eq, div_div_div_cancel_right₀ hunit, signed_div, Nat.cast_mul, cast_oneUnit]
  split <;> field_simp

/-! #### Naturals -/

theorem u2f_roundsTo (n : Nat) : RoundsTo (u2f n) n := by
  have h := roundsTo_fpack false (n := n * oneUnit) one_pos
  simpa [u2f, cast_oneUnit] using h

/-- A natural of at most 24 bits is a magnitude of binary32. -/
theorem exists_magUnits_eq {n : Nat} (hn : n < 2 ^ 24) : ∃ m ≤ infMag, magUnits m = n * oneUnit := by
  rcases Nat.eq_zero_or_pos n with rfl | hpos
  · exact ⟨0, by decide, by decide⟩
  · have hlog : Nat.log2 n < 24 := (Nat.log2_lt hpos.ne').2 hn
    have hlo : 2 ^ 23 ≤ n * 2 ^ (23 - Nat.log2 n) := by
      calc 2 ^ 23 = 2 ^ Nat.log2 n * 2 ^ (23 - Nat.log2 n) := by rw [← pow_add]; congr 1; omega
        _ ≤ n * 2 ^ (23 - Nat.log2 n) := Nat.mul_le_mul_right _ (Nat.log2_self_le hpos.ne')
    have hhi : n * 2 ^ (23 - Nat.log2 n) < 2 ^ 24 := by
      calc n * 2 ^ (23 - Nat.log2 n) < 2 ^ (Nat.log2 n + 1) * 2 ^ (23 - Nat.log2 n) :=
            Nat.mul_lt_mul_of_pos_right Nat.lt_log2_self (Nat.two_pow_pos _)
        _ = 2 ^ 24 := by rw [← pow_add]; congr 1; omega
    refine ⟨(126 + Nat.log2 n) * 2 ^ 23 + n * 2 ^ (23 - Nat.log2 n), ?_, ?_⟩
    · have : infMag = 255 * 2 ^ 23 := by decide
      omega
    · rw [magUnits_scaled hhi.le fun _ => hlo, oneUnit, mul_assoc, ← pow_add]
      congr 2
      omega

theorem value_u2f {n : Nat} (hn : n < 2 ^ 24) : value (u2f n) = n := by
  obtain ⟨m, hm, hunits⟩ := exists_magUnits_eq hn
  have hround : u2f n = fpack false m := by
    rw [u2f, ← hunits]
    simpa using congrArg (fpack false) (roundMag_magUnits one_pos hm)
  rw [value, hround, units_fpack hm, hunits, oneUnit]
  push_cast
  exact mul_div_cancel_right₀ _ (by positivity)

/-- Settles O44: each operation packs the exact sign and the rounded exact magnitude. -/
theorem arithmeticRoundsOnce : Obligations.ArithmeticRoundsOnce := by
  refine ⟨fun a b ha hb => ⟨?_, ?_, ?_, ?_⟩, fun n _ => ⟨u2f_roundsTo n, fsign_u2f n, value_u2f⟩⟩
  · exact addWith_roundsTo .add a b ha hb
  · rw [sub_eq_add_neg, ← value_fneg]
    exact addWith_roundsTo .sub a b ha (isFinite_fneg.2 hb)
  · exact fmul_roundsTo ha hb
  · exact fdiv_roundsTo ha hb

end Sys2Proof.Machine


/-! ### Infinities, zeros and NaNs in the arithmetic (rules R121 and R139) -/

namespace Sys2Proof.Machine

theorem isInf_fpack_infMag (sign : Bool) : isInf (fpack sign infMag) = true := by simp [isInf]

theorem isZero_fpack_zero (sign : Bool) : isZero (fpack sign 0) = true := by simp [isZero]

theorem isNaN_of_isZero {a : F32} (h : isZero a = true) : isNaN a = false := by
  simp only [isZero, decide_eq_true_eq] at h
  simp [isNaN, h]

theorem isInf_of_isZero {a : F32} (h : isZero a = true) : isInf a = false := by
  simp only [isZero, decide_eq_true_eq] at h
  simp [isInf, h, infMag]

/-! #### Sums -/

section
variable {op : FloatOp} {na nb a b : F32}

theorem addWith_infs_opposite (ha : isInf a = true) (hb : isInf b = true) (hs : fsign a ≠ fsign b) :
    isNaN (addWith op na nb a b) = true := by
  simp [addWith, ha, hb, isNaN_of_isInf, hs]

theorem addWith_infs_same (ha : isInf a = true) (hb : isInf b = true) (hs : fsign a = fsign b) :
    addWith op na nb a b = a := by
  simp [addWith, ha, hb, isNaN_of_isInf, hs]

theorem addWith_inf_left (ha : isInf a = true) (hb : isFinite b) : addWith op na nb a b = a := by
  simp [addWith, ha, isNaN_of_isInf, isInf_of_isFinite hb, isNaN_of_isFinite hb]

theorem addWith_inf_right (ha : isFinite a) (hb : isInf b = true) : addWith op na nb a b = b := by
  simp [addWith, hb, isNaN_of_isInf, isInf_of_isFinite ha, isNaN_of_isFinite ha]

theorem addWith_exact_zero (ha : isFinite a) (hb : isFinite b) (hsum : value a + value b = 0) :
    addWith op na nb a b = if fsign a && fsign b then 0x80000000 else 0 := by
  rw [value_add_eq_zero_iff] at hsum
  simp only [addWith, isNaN_of_isFinite ha, isNaN_of_isFinite hb, isInf_of_isFinite ha, isInf_of_isFinite hb,
    hsum, Bool.or_false, Bool.false_eq_true, if_false, if_true]
  cases fsign a && fsign b <;> rfl

end

/-! #### Products -/

section
variable {a b : F32}

theorem fmul_inf_zero (h : isInf a = true ∧ isZero b = true ∨ isZero a = true ∧ isInf b = true) :
    isNaN (fmul a b) = true := by
  rcases h with ⟨ha, hb⟩ | ⟨ha, hb⟩
  · simp [fmul, ha, hb, isNaN_of_isInf, isNaN_of_isZero]
  · simp [fmul, ha, hb, isNaN_of_isInf, isNaN_of_isZero]

theorem isInf_fmul (hinf : isInf a = true ∨ isInf b = true) (ha : isNaN a = false) (hb : isNaN b = false)
    (hza : isZero a = false) (hzb : isZero b = false) : isInf (fmul a b) = true := by
  have : (isInf a || isInf b) = true := by simpa using hinf
  simp [fmul, ha, hb, hza, hzb, this, isInf_fpack_infMag]

theorem fsign_fmul (h : isNaN (fmul a b) = false) : fsign (fmul a b) = (fsign a != fsign b) := by
  unfold fmul at h ⊢
  split_ifs at h ⊢ with hnan hinf hzero
  · simp at h
  · simp at h
  · exact fsign_fpack le_rfl
  · exact fsign_fpack (roundMag_le _ _)

/-! #### Quotients -/

theorem fdiv_of_isNaN (h : isNaN a = true ∨ isNaN b = true) : isNaN (fdiv a b) = true := by
  have : (isNaN a || isNaN b) = true := by simpa using h
  simp [fdiv, this]

theorem fdiv_inf_inf (ha : isInf a = true) (hb : isInf b = true) : isNaN (fdiv a b) = true := by
  simp [fdiv, ha, hb, isNaN_of_isInf]

theorem fdiv_zero_zero (ha : isZero a = true) (hb : isZero b = true) : isNaN (fdiv a b) = true := by
  simp [fdiv, ha, hb, isNaN_of_isZero, isInf_of_isZero]

theorem fdiv_inf_left (ha : isInf a = true) (hb : isFinite b) : isInf (fdiv a b) = true := by
  simp [fdiv, ha, isNaN_of_isInf, isInf_of_isFinite hb, isNaN_of_isFinite hb, isInf_fpack_infMag]

theorem fdiv_inf_right (ha : isFinite a) (hb : isInf b = true) : isZero (fdiv a b) = true := by
  simp [fdiv, hb, isNaN_of_isInf, isInf_of_isFinite ha, isNaN_of_isFinite ha, isZero_fpack_zero]

theorem fdiv_by_zero (ha : isNaN a = false) (hza : isZero a = false) (hb : isZero b = true) :
    isInf (fdiv a b) = true := by
  cases hinf : isInf a
  · simp [fdiv, ha, hza, hb, hinf, isNaN_of_isZero, isInf_of_isZero, isInf_fpack_infMag]
  · simp [fdiv, ha, hb, hinf, isNaN_of_isZero, isInf_of_isZero, isInf_fpack_infMag]

theorem fsign_fdiv (h : isNaN (fdiv a b) = false) : fsign (fdiv a b) = (fsign a != fsign b) := by
  unfold fdiv at h ⊢
  split_ifs at h ⊢
  · simp at h
  · simp at h
  · exact fsign_fpack le_rfl
  · exact fsign_fpack (by decide)
  · simp at h
  · exact fsign_fpack le_rfl
  · exact fsign_fpack (roundMag_le _ _)

end

/-- Settles O45: one lemma a case; a difference is the sum with the negated operand. -/
theorem arithmeticSpecialCases : Obligations.ArithmeticSpecialCases := by
  intro a b
  refine ⟨fun h => ?nan, fun ha hb => ?infs, fun ha hb => ?infLeft, fun ha hb => ?infRight, fdiv_zero_zero,
    fdiv_by_zero, fsign_fmul, fsign_fdiv, fun ha hb => ?zeroSum, fneg_fneg a, fmag_fneg a, fsign_fneg a⟩
  case nan =>
    have hneg : isNaN a = true ∨ isNaN (fneg b) = true := by rwa [isNaN_fneg]
    exact ⟨addWith_of_isNaN h, addWith_of_isNaN hneg, fmul_of_isNaN h, fdiv_of_isNaN h⟩
  case infs =>
    have hneg : isInf (fneg b) = true := by rwa [isInf_fneg]
    refine ⟨fun hs => ⟨addWith_infs_opposite ha hb hs, addWith_infs_same ha hneg ?_⟩,
      fun hs => ⟨addWith_infs_same ha hb hs, addWith_infs_opposite ha hneg ?_⟩,
      isInf_fmul (.inl ha) (isNaN_of_isInf ha) (isNaN_of_isInf hb) (isZero_of_isInf ha) (isZero_of_isInf hb),
      fdiv_inf_inf ha hb⟩
    · rwa [fsign_fneg, Bool.eq_not]
    · rwa [fsign_fneg, Bool.ne_not]
  case infLeft =>
    exact ⟨addWith_inf_left ha hb, addWith_inf_left ha (isFinite_fneg.2 hb), fdiv_inf_left ha hb,
      fun hz => fmul_inf_zero (.inl ⟨ha, hz⟩),
      isInf_fmul (.inl ha) (isNaN_of_isInf ha) (isNaN_of_isFinite hb) (isZero_of_isInf ha)⟩
  case infRight =>
    have hneg : isInf (fneg b) = true := by rwa [isInf_fneg]
    exact ⟨addWith_inf_right ha hb, addWith_inf_right ha hneg, fdiv_inf_right ha hb,
      fun hz => fmul_inf_zero (.inr ⟨hz, hb⟩),
      fun hz => isInf_fmul (.inr hb) (isNaN_of_isFinite ha) (isNaN_of_isInf hb) hz (isZero_of_isInf hb)⟩
  case zeroSum =>
    refine ⟨addWith_exact_zero ha hb, fun hdiff => ?_⟩
    rw [← fsign_fneg]
    exact addWith_exact_zero ha (isFinite_fneg.2 hb) (by rwa [value_fneg, ← sub_eq_add_neg])

end Sys2Proof.Machine


/-! ### Comparisons and conversions (rules R122, R124, R125 and R126) -/

namespace Sys2Proof.Machine

/-! #### The order of the patterns is the order of the values -/

theorem magUnits_strictMonoOn : StrictMonoOn magUnits (Set.Iic infMag) :=
  fun _ _ _ hn h => magUnits_lt_of_lt h hn

theorem magUnits_eq_zero_iff {m : Nat} : magUnits m = 0 ↔ m = 0 := by
  refine ⟨fun h => ?_, fun h => by rw [h]; rfl⟩
  by_contra hne
  exact (magUnits_pos (Nat.pos_of_ne_zero hne)).ne' h

theorem units_lt_iff {a b : F32} (ha : isFinite a) (hb : isFinite b) :
    units a < units b ↔ orderKey a < orderKey b := by
  have hlt : magUnits (fmag a) < magUnits (fmag b) ↔ fmag a < fmag b :=
    magUnits_strictMonoOn.lt_iff_lt (le_of_lt ha) (le_of_lt hb)
  have hgt : magUnits (fmag b) < magUnits (fmag a) ↔ fmag b < fmag a :=
    magUnits_strictMonoOn.lt_iff_lt (le_of_lt hb) (le_of_lt ha)
  have hza := magUnits_eq_zero_iff (m := fmag a)
  have hzb := magUnits_eq_zero_iff (m := fmag b)
  unfold units orderKey absUnits
  split <;> split <;> omega

theorem value_lt_iff {a b : F32} (ha : isFinite a) (hb : isFinite b) :
    value a < value b ↔ orderKey a < orderKey b := by
  rw [value, value, div_lt_div_iff_of_pos_right (by positivity), Int.cast_lt, units_lt_iff ha hb]

section
variable {a b : F32}

theorem flt_iff (ha : isNaN a = false) (hb : isNaN b = false) : flt a b = true ↔ orderKey a < orderKey b := by
  simp [flt, ha, hb]

theorem fle_iff (ha : isNaN a = false) (hb : isNaN b = false) : fle a b = true ↔ orderKey a ≤ orderKey b := by
  simp [fle, ha, hb]

theorem abs_orderKey (a : F32) : |orderKey a| = fmag a := by
  unfold orderKey
  split <;> simp

theorem abs_orderKey_le (ha : isNaN a = false) : |orderKey a| ≤ infMag := by
  simpa [abs_orderKey, isNaN] using ha

theorem abs_orderKey_lt (ha : isFinite a) : |orderKey a| < infMag := by
  rw [abs_orderKey]
  exact_mod_cast ha

theorem orderKey_posInf : orderKey 0x7F800000 = infMag := by decide

theorem orderKey_negInf : orderKey 0xFF800000 = -infMag := by decide

/-- Between numbers one comparison is the other with the operands exchanged, negated. -/
theorem flt_eq_not_fle (ha : isNaN a = false) (hb : isNaN b = false) : flt a b = !fle b a := by
  rw [Bool.eq_iff_iff, flt_iff ha hb, Bool.not_eq_true', ← Bool.not_eq_true, fle_iff hb ha, not_le]

theorem fle_posInf (ha : isNaN a = false) : fle a 0x7F800000 = true := by
  rw [fle_iff ha (by decide), orderKey_posInf]
  exact (le_abs_self _).trans (abs_orderKey_le ha)

theorem negInf_fle (ha : isNaN a = false) : fle 0xFF800000 a = true := by
  rw [fle_iff (by decide) ha, orderKey_negInf]
  exact neg_le_of_abs_le (abs_orderKey_le ha)

theorem flt_posInf (ha : isFinite a) : flt a 0x7F800000 = true := by
  rw [flt_iff (isNaN_of_isFinite ha) (by decide), orderKey_posInf]
  exact (le_abs_self _).trans_lt (abs_orderKey_lt ha)

theorem negInf_flt (ha : isFinite a) : flt 0xFF800000 a = true := by
  rw [flt_iff (by decide) (isNaN_of_isFinite ha), orderKey_negInf]
  exact neg_lt_of_abs_lt (abs_orderKey_lt ha)

end

/-- Settles O46: the keys order the finite patterns as their values do, and lie between those of the two
infinities. -/
theorem comparisonsFollowValues : Obligations.ComparisonsFollowValues := by
  intro a b
  have hpos : isNaN 0x7F800000 = false := by decide
  have hneg : isNaN 0xFF800000 = false := by decide
  refine ⟨fun ha hb => ⟨?_, ?_⟩, fun ha => ⟨fle_posInf ha, negInf_fle ha, ?_, ?_⟩,
    fun ha => ⟨flt_posInf ha, negInf_flt ha, ?_, ?_⟩, by decide, by decide, fun h => ?_⟩
  · rw [flt_iff (isNaN_of_isFinite ha) (isNaN_of_isFinite hb), value_lt_iff ha hb]
  · rw [fle_iff (isNaN_of_isFinite ha) (isNaN_of_isFinite hb), ← not_lt, ← not_lt, value_lt_iff hb ha]
  · rw [flt_eq_not_fle hpos ha, fle_posInf ha, Bool.not_true]
  · rw [flt_eq_not_fle ha hneg, negInf_fle ha, Bool.not_true]
  · rw [← Bool.not_eq_true', ← flt_eq_not_fle (isNaN_of_isFinite ha) hpos, flt_posInf ha]
  · rw [← Bool.not_eq_true', ← flt_eq_not_fle hneg (isNaN_of_isFinite ha), negInf_flt ha]
  · rcases h with h | h
    · exact ⟨flt_of_isNaN_left h b, fle_of_isNaN_left h b⟩
    · exact ⟨flt_of_isNaN_right h a, fle_of_isNaN_right h a⟩

/-! #### Conversions to naturals -/

theorem value_of_fsign_false {v : F32} (h : fsign v = false) : value v = (absUnits v : ℚ) / oneUnit := by
  simp [value_eq, h, cast_oneUnit]

theorem value_of_fsign_true {v : F32} (h : fsign v = true) : value v = -((absUnits v : ℚ) / oneUnit) := by
  simp [value_eq, h, cast_oneUnit, neg_div]

theorem value_nonpos_of_fsign {v : F32} (h : fsign v = true) : value v ≤ 0 := by
  rw [value_of_fsign_true h, neg_nonpos]
  positivity

theorem oneUnit_pos : 0 < oneUnit := Nat.two_pow_pos 149

/-- A bound on a value is a bound on its multiple of the unit. -/
theorem le_value_iff {v : F32} (h : fsign v = false) {c : ℚ} {n : Nat} (hc : (n : ℚ) = c) :
    c ≤ value v ↔ n * oneUnit ≤ absUnits v := by
  rw [value_of_fsign_false h, ← hc, le_div_iff₀ (by exact_mod_cast oneUnit_pos)]
  exact_mod_cast Iff.rfl

/-- Rule R124; the largest natural not above a negative value is 0. -/
theorem f2nTrunc_of_isFinite {v : F32} (hv : isFinite v) :
    f2nTrunc v = if 2 ^ 32 ≤ value v then 2 ^ 32 - 1 else ⌊value v⌋₊ := by
  rw [f2nTrunc, isNaN_of_isFinite hv, isInf_of_isFinite hv, Bool.false_or]
  cases hs : fsign v
  case true =>
    have hneg := value_nonpos_of_fsign hs
    rw [if_pos rfl, if_neg (by linarith), Nat.floor_of_nonpos hneg]
  case false =>
    have hbound : 2 ^ 32 ≤ value v ↔ 2 ^ 32 * oneUnit ≤ absUnits v := le_value_iff hs (by norm_num)
    rw [if_neg Bool.false_ne_true, if_neg Bool.false_ne_true, if_congr hbound rfl rfl,
      value_of_fsign_false hs, Nat.floor_div_eq_div]

theorem floor_value_add_half {v : F32} (h : fsign v = false) :
    ⌊value v + 1 / 2⌋₊ = (2 * absUnits v + oneUnit) / (2 * oneUnit) := by
  have hunit : (oneUnit : ℚ) ≠ 0 := by exact_mod_cast oneUnit_pos.ne'
  have hsum : value v + 1 / 2 = ((2 * absUnits v + oneUnit : ℕ) : ℚ) / (2 * oneUnit : ℕ) := by
    rw [value_of_fsign_false h]
    push_cast
    field_simp
  rw [hsum, Nat.floor_div_eq_div]

/-- Rule R125; the sum with 1/2 is the exact one. -/
theorem f2nRound_of_isFinite {v : F32} (hv : isFinite v) :
    f2nRound v = if value v ≤ 0 then 0 else if 2 ^ 32 - 1 ≤ value v then 2 ^ 32 - 1 else ⌊value v + 1 / 2⌋₊ := by
  rw [f2nRound, isNaN_of_isFinite hv, isInf_of_isFinite hv, Bool.false_or]
  cases hs : fsign v
  case true =>
    rw [if_pos rfl, if_pos (value_nonpos_of_fsign hs)]
  case false =>
    have hbound : 2 ^ 32 - 1 ≤ value v ↔ (2 ^ 32 - 1) * oneUnit ≤ absUnits v := le_value_iff hs (by norm_num)
    rw [if_neg Bool.false_ne_true, if_neg Bool.false_ne_true, ← floor_value_add_half hs,
      ← if_congr hbound rfl rfl]
    rcases lt_or_ge 0 (value v) with hpos | hzero
    · rw [if_neg (not_le.2 hpos)]
    · have hhalf : ⌊value v + 1 / 2⌋₊ = 0 := Nat.floor_eq_zero.2 (by linarith)
      rw [if_pos hzero, if_neg (by linarith), hhalf]

/-- Settles O47: on finite patterns by the two equations above, the others by evaluation. -/
theorem floatToNatural : Obligations.FloatToNatural := by
  refine fun v => ⟨fun h => ?nan, fun hv hle => ?nonpos, fun hv _ hlt => ?trunc, fun hv hge => ?truncMax,
    fun hv hpos hlt => ?round, fun hv hge => ?roundMax, fun h => ?posInf, fun h => ?negInf⟩
  case nan => simp [f2nTrunc, f2nRound, h]
  case nonpos =>
    rw [f2nTrunc_of_isFinite hv, f2nRound_of_isFinite hv, if_neg (by linarith), if_pos hle,
      Nat.floor_of_nonpos hle]
    exact ⟨rfl, rfl⟩
  case trunc => rw [f2nTrunc_of_isFinite hv, if_neg (not_le.2 hlt)]
  case truncMax => rw [f2nTrunc_of_isFinite hv, if_pos hge]
  case round => rw [f2nRound_of_isFinite hv, if_neg (not_le.2 hpos), if_neg (not_le.2 hlt)]
  case roundMax => rw [f2nRound_of_isFinite hv, if_neg (by linarith), if_pos hge]
  case posInf => rw [h]; decide
  case negInf => rw [h]; decide

/-! #### The output cast -/

theorem f2i16Int_bounds (v : F32) : -32768 ≤ f2i16Int v ∧ f2i16Int v ≤ 32767 := by
  unfold f2i16Int
  generalize absUnits v / oneUnit = t
  split_ifs <;> omega

theorem toInt_f2i16 (v : F32) : (f2i16 v).toInt = f2i16Int v := by
  obtain ⟨hlo, hhi⟩ := f2i16Int_bounds v
  rw [f2i16, BitVec.toInt_ofInt]
  exact Int.bmod_eq_of_le (by omega) (by omega)

theorem floor_absUnits (v : F32) : ⌊(absUnits v : ℚ) / oneUnit⌋ = (absUnits v / oneUnit : Nat) := by
  rw [← Int.natCast_floor_eq_floor (by positivity), Nat.floor_div_eq_div]

theorem f2i16Int_of_isFinite {v : F32} (hv : isFinite v) :
    f2i16Int v = if fsign v then max (-⌊-value v⌋) (-32768) else min ⌊value v⌋ 32767 := by
  rw [f2i16Int, isNaN_of_isFinite hv, isInf_of_isFinite hv, if_neg Bool.false_ne_true,
    if_neg Bool.false_ne_true]
  cases hs : fsign v
  case true => rw [if_pos rfl, if_pos rfl, value_of_fsign_true hs, neg_neg, floor_absUnits]
  case false =>
    rw [if_neg Bool.false_ne_true, if_neg Bool.false_ne_true, value_of_fsign_false hs, floor_absUnits]

/-- Settles O48: truncation toward zero is the floor on the magnitude; the two zeros meet both clauses. -/
theorem outputCastTruncatesAndClamps : Obligations.OutputCastTruncatesAndClamps := by
  refine fun v => ⟨f2i16_of_isNaN, fun hinf => ?_, fun hv hge => ?_, fun hv hle => ?_⟩
  · rw [toInt_f2i16, f2i16Int, isNaN_of_isInf hinf, hinf]
    rfl
  · rw [toInt_f2i16, f2i16Int_of_isFinite hv]
    cases hs : fsign v
    case true =>
      have hzero : value v = 0 := le_antisymm (value_nonpos_of_fsign hs) hge
      simp [hzero]
    case false => rfl
  · rw [toInt_f2i16, f2i16Int_of_isFinite hv]
    cases hs : fsign v
    case true => rfl
    case false =>
      have hge : 0 ≤ value v := by rw [value_of_fsign_false hs]; positivity
      have hzero : value v = 0 := le_antisymm hle hge
      simp [hzero]

end Sys2Proof.Machine


/-! ### The exponential (rule R128) -/

namespace Sys2Proof.Machine

/-! #### The fixed-point series -/

theorem expSeries_mono {r r' : Nat} (h : r ≤ r') (j : Nat) : expSeries r j ≤ expSeries r' j := by
  induction j with
  | zero => exact le_rfl
  | succ j ih => exact Nat.add_le_add_left (Nat.div_le_div_right (Nat.mul_le_mul h ih)) _

theorem fixOne_le_expSeries (r j : Nat) : fixOne ≤ expSeries r j := by
  cases j with
  | zero => exact le_rfl
  | succ j => exact Nat.le_add_right _ _

theorem fixOne_pos : 0 < fixOne := Nat.two_pow_pos 160

theorem fixSquare_mono {t t' : Nat} (h : t ≤ t') : fixSquare t ≤ fixSquare t' :=
  Nat.div_le_div_right (Nat.mul_le_mul h h)

theorem fixOne_le_fixSquare {t : Nat} (h : fixOne ≤ t) : fixOne ≤ fixSquare t :=
  (Nat.le_div_iff_mul_le fixOne_pos).2 (Nat.mul_le_mul h h)

theorem fixSquares_mono {t t' : Nat} (h : t ≤ t') (n : Nat) : fixSquares t n ≤ fixSquares t' n := by
  induction n with
  | zero => exact h
  | succ n ih => exact fixSquare_mono ih

theorem fixOne_le_fixSquares {t : Nat} (h : fixOne ≤ t) (n : Nat) : fixOne ≤ fixSquares t n := by
  induction n with
  | zero => exact h
  | succ n ih => exact fixOne_le_fixSquare ih

theorem expFix_mono {y y' : Nat} (h : y ≤ y') : expFix y ≤ expFix y' :=
  fixSquares_mono (expSeries_mono (Nat.mul_le_mul_left 2 h) 28) 10

theorem fixOne_le_expFix (y : Nat) : fixOne ≤ expFix y :=
  fixOne_le_fixSquares (fixOne_le_expSeries _ 28) 10

theorem expFix_pos (y : Nat) : 0 < expFix y := fixOne_pos.trans_le (fixOne_le_expFix y)

/-! #### The two branches -/

/-- The pattern of 1.0. -/
def oneMag : Nat := 0x3F800000

theorem roundMag_fixOne : roundMag (fixOne * oneUnit) fixOne = oneMag := by decide

/-- The pattern of `e^-y`, for `y` units of 2^-149. -/
def expNegMag (y : Nat) : Nat :=
  if 104 * oneUnit < y then 0 else roundMag (fixOne * oneUnit) (expFix y)

/-- The pattern of `e^y`, for `y` units of 2^-149. -/
def expPosMag (y : Nat) : Nat :=
  if 89 * oneUnit < y then infMag else roundMag (expFix y * oneUnit) fixOne

theorem expNegMag_le_oneMag (y : Nat) : expNegMag y ≤ oneMag := by
  unfold expNegMag
  split
  · exact Nat.zero_le _
  · rw [← roundMag_fixOne]
    exact roundMag_mono (expFix_pos y) fixOne_pos (Nat.mul_le_mul_left _ (fixOne_le_expFix y))

theorem oneMag_le_expPosMag (y : Nat) : oneMag ≤ expPosMag y := by
  unfold expPosMag
  split
  · decide
  · rw [← roundMag_fixOne]
    exact roundMag_mono fixOne_pos fixOne_pos
      (Nat.mul_le_mul_right _ (Nat.mul_le_mul_right _ (fixOne_le_expFix y)))

theorem expPosMag_le (y : Nat) : expPosMag y ≤ infMag := by
  unfold expPosMag
  split
  · exact le_rfl
  · exact roundMag_le _ _

theorem expNegMag_antitone : Antitone expNegMag := by
  intro y y' h
  unfold expNegMag
  split
  · exact Nat.zero_le _
  · rw [if_neg (by omega)]
    exact roundMag_mono (expFix_pos y') (expFix_pos y) (Nat.mul_le_mul_left _ (expFix_mono h))

theorem expPosMag_monotone : Monotone expPosMag := by
  intro y y' h
  unfold expPosMag
  split
  · rw [if_pos (by omega)]
  · split
    · exact roundMag_le _ _
    · exact roundMag_mono fixOne_pos fixOne_pos
        (Nat.mul_le_mul_right _ (Nat.mul_le_mul_right _ (expFix_mono h)))

theorem expNegMag_zero : expNegMag 0 = oneMag := by decide

theorem expPosMag_zero : expPosMag 0 = oneMag := by decide

/-! #### `fexp` -/

/-- The pattern of `e^x`. -/
def fexpMag (x : F32) : Nat := if fsign x then expNegMag (absUnits x) else expPosMag (absUnits x)

theorem fexpMag_le (x : F32) : fexpMag x ≤ infMag := by
  unfold fexpMag
  split
  · exact (expNegMag_le_oneMag _).trans (by decide)
  · exact expPosMag_le _

/-- Both thresholds of `fexp` lie below the magnitude units of an infinity. -/
theorem lt_absUnits_of_isInf {x : F32} (h : isInf x = true) {c : Nat} (hc : c ≤ 104) :
    c * oneUnit < absUnits x := by
  simp only [isInf, decide_eq_true_eq] at h
  rw [absUnits, h]
  exact (Nat.mul_le_mul_right _ hc).trans_lt (by decide)

theorem isInf_or_lt_iff (x : F32) {c : Nat} (hc : c ≤ 104) :
    (isInf x || decide (c * oneUnit < absUnits x)) = true ↔ c * oneUnit < absUnits x := by
  rw [Bool.or_eq_true, decide_eq_true_eq, or_iff_right_of_imp fun h => lt_absUnits_of_isInf h hc]

theorem fexp_eq_fpack {x : F32} (h : isNaN x = false) : fexp x = fpack false (fexpMag x) := by
  rw [fexp, h, if_neg Bool.false_ne_true, fexpMag, if_congr (isInf_or_lt_iff x le_rfl) rfl rfl,
    if_congr (isInf_or_lt_iff x (by decide)) rfl rfl, expNegMag, expPosMag]
  split
  · split <;> rfl
  · split <;> rfl

theorem isNaN_fexp (x : F32) : isNaN (fexp x) = isNaN x := by
  cases h : isNaN x
  · rw [fexp_eq_fpack h, isNaN_fpack (fexpMag_le x)]
  · simp [fexp, h]

theorem orderKey_fexp {x : F32} (h : isNaN x = false) : orderKey (fexp x) = fexpMag x := by
  rw [fexp_eq_fpack h, orderKey_fpack (fexpMag_le x), if_neg Bool.false_ne_true]

theorem fexpMag_mono {x y : F32} (h : orderKey x ≤ orderKey y) : fexpMag x ≤ fexpMag y := by
  unfold orderKey at h
  unfold fexpMag
  cases hx : fsign x <;> cases hy : fsign y <;>
    simp only [hx, hy, Bool.false_eq_true, if_false, if_true] at h ⊢
  case false.false => exact expPosMag_monotone (magUnits_mono (by omega))
  case false.true =>
    have hx0 : absUnits x = 0 := magUnits_eq_zero_iff.2 (by omega)
    have hy0 : absUnits y = 0 := magUnits_eq_zero_iff.2 (by omega)
    rw [hx0, hy0, expPosMag_zero, expNegMag_zero]
  case true.false => exact (expNegMag_le_oneMag _).trans (oneMag_le_expPosMag _)
  case true.true => exact expNegMag_antitone (magUnits_mono (by omega))

/-- A comparison that holds has no NaN on either side. -/
theorem of_fle {x y : F32} (h : fle x y = true) :
    isNaN x = false ∧ isNaN y = false ∧ orderKey x ≤ orderKey y := by
  simpa [fle, and_assoc] using h

theorem fexp_mono {x y : F32} (h : fle x y = true) : fle (fexp x) (fexp y) = true := by
  obtain ⟨hx, hy, hle⟩ := of_fle h
  rw [fle_iff ((isNaN_fexp x).trans hx) ((isNaN_fexp y).trans hy), orderKey_fexp hx, orderKey_fexp hy]
  exact_mod_cast fexpMag_mono hle

theorem fexp_zero (sign : Bool) : fexp (fpack sign 0) = c1 := by
  cases sign <;> decide

/-- Settles O49: monotone by the two branches, and at most 1 below 0 because it is 1 there. -/
theorem exponentialProperties : Obligations.ExponentialProperties := by
  refine ⟨fexp_zero false, fexp_zero true, fun x hx => ⟨?_, ?_⟩, fun x y => fexp_mono, isNaN_fexp⟩
  · obtain ⟨hnan, -, -⟩ := of_fle hx
    rw [fle_iff (by decide) ((isNaN_fexp x).trans hnan), orderKey_fexp hnan]
    exact Int.natCast_nonneg _
  · rw [← fexp_zero false]
    exact fexp_mono hx

end Sys2Proof.Machine


/-! ### The sine (rule R127) -/

namespace Sys2Proof.Machine

/-! #### The magnitude of a half turn -/

theorem sinFix_le_fixOne (a : Nat) : sinFix a ≤ fixOne := Nat.min_le_right _ _

theorem sinHalfTurnMag_le_oneMag (t N : Nat) : sinHalfTurnMag t N ≤ oneMag := by
  rw [← roundMag_fixOne]
  exact roundMag_mono fixOne_pos fixOne_pos (Nat.mul_le_mul_right _ (Nat.mul_le_mul_right _ (sinFix_le_fixOne _)))

theorem sinHalfTurnMag_zero (N : Nat) : sinHalfTurnMag 0 N = 0 := by
  have hround : roundMag (sinFix 0 * oneUnit) fixOne = 0 := by decide
  rw [sinHalfTurnMag, Nat.zero_min, Nat.mul_zero, Nat.zero_div, hround]

/-- The half turn is folded at the quarter turn. -/
theorem sinHalfTurnMag_symm {t N : Nat} (h : t ≤ N) : sinHalfTurnMag (N - t) N = sinHalfTurnMag t N := by
  rw [sinHalfTurnMag, sinHalfTurnMag, Nat.sub_sub_self h, min_comm]

/-- At the quarter turn the argument is half of pi, whatever `N`. -/
theorem sinHalfTurnMag_quarter {m : Nat} (hm : 0 < m) : sinHalfTurnMag (2 * m) (4 * m) = oneMag := by
  have hround : roundMag (sinFix (fixPi / 2) * oneUnit) fixOne = oneMag := by decide
  have hfold : min (2 * m) (4 * m - 2 * m) = 2 * m := by omega
  have hargument : fixPi * (2 * m) / (4 * m) = fixPi / 2 := by
    rw [← mul_assoc, show 4 * m = 2 * 2 * m by ring, Nat.mul_div_mul_right _ _ hm,
      Nat.mul_div_mul_right _ _ two_pos]
  rw [sinHalfTurnMag, hfold, hargument, hround]

/-! #### `sinTurn` in the two halves of the turn -/

theorem sinTurn_first_half {k N : Nat} (h : 2 * k < N) :
    sinTurn k N = fpack false (sinHalfTurnMag (2 * k) N) := if_pos h

theorem sinTurn_second_half {k N : Nat} (h : N < 2 * k) :
    sinTurn k N = fpack true (sinHalfTurnMag (2 * k - N) N) := by
  rw [sinTurn, if_neg (by omega), decide_eq_true (by omega)]

theorem sinTurn_half_turn {k N : Nat} (h : 2 * k = N) : sinTurn k N = 0 := by
  rw [sinTurn, if_neg (by omega), h, Nat.sub_self, sinHalfTurnMag_zero]
  simp [fpack]

/-- S1. -/
theorem sinTurn_zero {N : Nat} (h : 0 < N) : sinTurn 0 N = 0 := by
  rw [sinTurn_first_half (by omega), Nat.mul_zero, sinHalfTurnMag_zero]
  rfl

/-- A packed magnitude of at most 1.0 lies in [-1, 1]. -/
theorem fpack_between {m : Nat} (sign : Bool) (hm : m ≤ oneMag) :
    fle 0xBF800000 (fpack sign m) = true ∧ fle (fpack sign m) c1 = true := by
  have hle : m ≤ infMag := hm.trans (by decide)
  have hneg : orderKey 0xBF800000 = -oneMag := by decide
  have hpos : orderKey c1 = oneMag := by decide
  rw [fle_iff (by decide) (isNaN_fpack hle), fle_iff (isNaN_fpack hle) (by decide), orderKey_fpack hle, hneg,
    hpos]
  split <;> omega

/-- S2. -/
theorem sinTurn_between (k N : Nat) : fle 0xBF800000 (sinTurn k N) = true ∧ fle (sinTurn k N) c1 = true := by
  unfold sinTurn
  split
  · exact fpack_between _ (sinHalfTurnMag_le_oneMag _ _)
  · exact fpack_between _ (sinHalfTurnMag_le_oneMag _ _)

theorem fle_refl {a : F32} (h : isNaN a = false) : fle a a = true := (fle_iff h h).2 le_rfl

theorem isNaN_sinTurn (k N : Nat) : isNaN (sinTurn k N) = false := (of_fle (sinTurn_between k N).1).2.1

theorem sinHalfTurnMag_le_infMag (t N : Nat) : sinHalfTurnMag t N ≤ infMag :=
  (sinHalfTurnMag_le_oneMag t N).trans (by decide)

/-- Away from the half turn the second half of the turn is the first one negated, to the bit. -/
theorem sinTurn_sub {k N : Nat} (hN : k < N) (h : 2 * k ≠ N) :
    sinTurn (N - k) N = fneg (sinTurn k N) := by
  rcases Nat.lt_or_gt_of_ne h with hlt | hgt
  · have hfold : 2 * (N - k) - N = N - 2 * k := by omega
    rw [sinTurn_second_half (by omega), sinTurn_first_half hlt, hfold, sinHalfTurnMag_symm hlt.le,
      fneg_fpack (sinHalfTurnMag_le_infMag _ _), Bool.not_false]
  · have hfold : 2 * (N - k) = N - (2 * k - N) := by omega
    rw [sinTurn_first_half (by omega), sinTurn_second_half hgt, hfold, sinHalfTurnMag_symm (by omega),
      fneg_fpack (sinHalfTurnMag_le_infMag _ _), Bool.not_true]

/-- S3, by value: at the half turn both sides are zeros, of opposite signs. -/
theorem sinTurn_odd {k N : Nat} (hN : k < N) :
    fle (sinTurn (N - k) N) (fneg (sinTurn k N)) = true ∧
      fle (fneg (sinTurn k N)) (sinTurn (N - k) N) = true := by
  by_cases h : 2 * k = N
  · rw [sinTurn_half_turn h, sinTurn_half_turn (by omega)]
    decide
  · rw [sinTurn_sub hN h]
    exact ⟨fle_refl (by simp [isNaN_sinTurn]), fle_refl (by simp [isNaN_sinTurn])⟩

/-- S4 at the first and the third quarter. -/
theorem sinTurn_quarters {m : Nat} (hm : 0 < m) :
    sinTurn m (4 * m) = c1 ∧ sinTurn (3 * m) (4 * m) = 0xBF800000 := by
  have hthird : 2 * (3 * m) - 4 * m = 2 * m := by omega
  rw [sinTurn_first_half (by omega), sinTurn_second_half (by omega), hthird, sinHalfTurnMag_quarter hm]
  decide

/-- Settles O50. -/
theorem sineProperties : Obligations.SineProperties := by
  refine fun N hN _ => ⟨sinTurn_zero (by omega), fun k _ => sinTurn_between k N,
    fun k hk _ => sinTurn_odd hk, fun heven => ?_, ?_⟩
  · rw [sinTurn_half_turn (by omega)]
    decide
  · rintro ⟨m, rfl⟩
    have hfirst : 4 * m / 4 = m := by omega
    have hthird : 3 * (4 * m) / 4 = 3 * m := by omega
    rw [hfirst, hthird]
    exact sinTurn_quarters (by omega)

end Sys2Proof.Machine


/-! ### The waveforms and the table of notes (rules R130 and R136 to R138) -/

namespace Sys2Proof.Machine

/-- Settles O18: the entries of `generate` are those of `generateEntry`. -/
theorem generateFollowsFormulas : Obligations.GenerateFollowsFormulas := by
  refine fun w A N => ⟨generate_length w A N, fun k hk => ?_⟩
  rw [List.getElem?_eq_getElem (by simpa using hk), generate_getElem]
  cases w <;> rfl

/-! #### Facts about the 128 entries of the table, each checked entry by entry -/

set_option maxRecDepth 2000 in
/-- Settles O35. -/
theorem keysBelowFourRejected : Obligations.KeysBelowFourRejected := by
  unfold Obligations.KeysBelowFourRejected
  decide

set_option maxRecDepth 2000 in
theorem noteFreq_octave : ∀ key < 116, noteFreq (key + 12) = fmul (u2f 2) (noteFreq key) := by decide

set_option maxRecDepth 2000 in
/-- Settles O38: the twelfth powers are compared as naturals. -/
theorem noteFreqEqualTempered : Obligations.NoteFreqEqualTempered := by
  refine ⟨?nearest, rfl, noteFreq_octave⟩
  decide

end Sys2Proof.Machine


/-! ### The accepted frequencies (rules R160 and R161) -/

namespace Sys2Proof.Machine

/-! #### Products, quotients and conversions of positive patterns -/

/-- A product with a finite factor of at least 1.0: an infinity needs no case of its own, since it rounds to
itself. -/
theorem fmul_of_one_le {a c : F32} (ha : isNaN a = false) (hc : isFinite c) (hone : oneUnit ≤ absUnits c) :
    fmul a c = fpack (fsign a != fsign c) (roundMag (absUnits a * absUnits c) oneUnit) := by
  have hcz : isZero c = false := by
    by_contra h
    have hzero : absUnits c = 0 := magUnits_eq_zero_iff.2 (by simpa [isZero] using h)
    exact absurd (hzero ▸ hone) (by decide)
  cases hinf : isInf a
  case false => simp [fmul, ha, hinf, isNaN_of_isFinite hc, isInf_of_isFinite hc]
  case true =>
    have hmag : fmag a = infMag := by simpa [isInf] using hinf
    have hround : roundMag (absUnits a * absUnits c) oneUnit = infMag := by
      refine le_antisymm (roundMag_le _ _) ?_
      rw [absUnits, hmag]
      calc infMag = roundMag (magUnits infMag * oneUnit) oneUnit := (roundMag_magUnits oneUnit_pos le_rfl).symm
        _ ≤ roundMag (magUnits infMag * absUnits c) oneUnit :=
          roundMag_mono oneUnit_pos oneUnit_pos (Nat.mul_le_mul_right _ (Nat.mul_le_mul_left _ hone))
    simp [fmul, ha, hinf, hround, isZero_of_isInf hinf, hcz, isNaN_of_isFinite hc]

/-- A quotient of finite values with a divisor that is not zero. -/
theorem fdiv_of_isFinite {a b : F32} (ha : isFinite a) (hb : isFinite b) (hz : isZero b = false) :
    fdiv a b = fpack (fsign a != fsign b) (roundMag (absUnits a * oneUnit) (absUnits b)) := by
  simp [fdiv, isNaN_of_isFinite ha, isNaN_of_isFinite hb, isInf_of_isFinite ha, isInf_of_isFinite hb, hz]

/-- The conversion of a positive value, an infinity included, is the rounded value up to its bound. -/
theorem f2nRound_of_positive {v : F32} (hnan : isNaN v = false) (hs : fsign v = false) :
    f2nRound v = min (2 ^ 32 - 1) ((2 * absUnits v + oneUnit) / (2 * oneUnit)) := by
  have hunit : 0 < 2 * oneUnit := by decide
  have hlarge : (isInf v = true ∨ (2 ^ 32 - 1) * oneUnit ≤ absUnits v) →
      2 ^ 32 - 1 ≤ (2 * absUnits v + oneUnit) / (2 * oneUnit) := by
    intro h
    have hle : (2 ^ 32 - 1) * oneUnit ≤ absUnits v := by
      refine h.elim (fun hinf => ?_) id
      have hmag : fmag v = infMag := by simpa [isInf] using hinf
      rw [absUnits, hmag]
      decide
    rw [Nat.le_div_iff_mul_le hunit]
    omega
  unfold f2nRound
  simp only [hnan, hs, Bool.or_false, Bool.false_eq_true, if_false]
  split_ifs with hinf hbound
  · exact (min_eq_left (hlarge (.inl hinf))).symm
  · exact (min_eq_left (hlarge (.inr hbound))).symm
  · refine (min_eq_right (Nat.le_of_lt_succ ?_)).symm
    rw [Nat.div_lt_iff_lt_mul hunit]
    omega

/-- The conversion of positive patterns is monotone in the pattern. -/
theorem f2nRound_fpack_mono {m n : Nat} (h : m ≤ n) (hn : n ≤ infMag) :
    f2nRound (fpack false m) ≤ f2nRound (fpack false n) := by
  have hm : m ≤ infMag := h.trans hn
  rw [f2nRound_of_positive (isNaN_fpack hm) (fsign_fpack hm),
    f2nRound_of_positive (isNaN_fpack hn) (fsign_fpack hn), absUnits, absUnits, fmag_fpack hm, fmag_fpack hn]
  have hunits := magUnits_mono h
  exact min_le_min le_rfl (Nat.div_le_div_right (by omega))

/-- A pattern below that of +infinity is positive, finite, and its own magnitude. -/
theorem positive_of_toNat_lt {f : F32} (h : f.toNat < infMag) :
    fsign f = false ∧ fmag f = f.toNat ∧ isFinite f := by
  have hsmall : infMag < 2 ^ 31 := by decide
  have hmag : fmag f = f.toNat := Nat.mod_eq_of_lt (by omega)
  refine ⟨?_, hmag, by rw [isFinite, hmag]; exact h⟩
  rw [fsign, BitVec.msb_eq_decide, decide_eq_false_iff_not]
  omega

/-! #### The product of step 2 of rule R152 -/

/-- The magnitude of the product step 2 compares, for a frequency of magnitude `m`. -/
def productMag (u : OscUnit) (m : Nat) : Nat := roundMag (magUnits m * absUnits (u2f (Config.DS u))) oneUnit

theorem oscProduct_eq_fpack (u : OscUnit) {f : F32} (h : isNaN f = false) :
    oscProduct u f = fpack (fsign f) (productMag u (fmag f)) := by
  have hfactor : fmag (u2f (Config.DS u)) < infMag ∧ oneUnit ≤ absUnits (u2f (Config.DS u)) := by
    cases u <;> decide
  obtain ⟨hfin, hone⟩ := hfactor
  rw [oscProduct, fmul_of_one_le h hfin hone, fsign_u2f, Bool.bne_false]
  rfl

theorem productMag_le (u : OscUnit) (m : Nat) : productMag u m ≤ infMag := roundMag_le _ _

theorem productMag_monotone (u : OscUnit) : Monotone (productMag u) := fun _ _ h =>
  roundMag_mono oneUnit_pos oneUnit_pos (Nat.mul_le_mul_right _ (Nat.mul_le_mul_right _ (magUnits_mono h)))

/-- Step 2 passes the positive patterns, no NaN, whose product lies between the two bounds. -/
theorem oscFreqOk_iff_productMag (u : OscUnit) (f : F32) :
    oscFreqOk u f = true ↔ isNaN f = false ∧ fsign f = false ∧
      fmag fMin ≤ productMag u (fmag f) ∧ productMag u (fmag f) ≤ fmag fMax := by
  rw [oscFreqOk, Bool.and_eq_true]
  cases hnan : isNaN f
  case true =>
    have hproduct : isNaN (oscProduct u f) = true := fmul_of_isNaN (.inl hnan)
    simp [fle_of_isNaN_right hproduct]
  case false =>
    have hle := productMag_le u (fmag f)
    have hmin : orderKey fMin = fmag fMin := by decide
    have hmax : orderKey fMax = fmag fMax := by decide
    have hpos : 0 < fmag fMin := by decide
    rw [oscProduct_eq_fpack u hnan, fle_iff (by decide) (isNaN_fpack hle), fle_iff (isNaN_fpack hle) (by decide),
      orderKey_fpack hle, hmin, hmax]
    cases fsign f
    case true => simp; omega
    case false => simp

/-! #### The ranges of rule R160 -/

/-- The least accepted pattern: 10.0 on OSC1 and OSC2, `f32(0.1)` on the LFO. -/
def lowestFreq : OscUnit → Nat
  | .osc1 | .osc2 => 0x41200000
  | .lfo => 0x3DCCCCCD

/-- The greatest accepted pattern: 22050.0 on OSC1 and OSC2, 220.5 on the LFO. -/
def highestFreq : OscUnit → Nat
  | .osc1 | .osc2 => 0x46AC4400
  | .lfo => 0x435C8000

/-- The product crosses `F_MIN` and `F_MAX` at the ends of the range. -/
theorem productMag_ends (u : OscUnit) :
    productMag u (lowestFreq u - 1) < fmag fMin ∧ fmag fMin ≤ productMag u (lowestFreq u) ∧
      productMag u (highestFreq u) ≤ fmag fMax ∧ fmag fMax < productMag u (highestFreq u + 1) := by
  cases u <;> decide

theorem productMag_accepted_iff (u : OscUnit) (m : Nat) :
    (fmag fMin ≤ productMag u m ∧ productMag u m ≤ fmag fMax) ↔ lowestFreq u ≤ m ∧ m ≤ highestFreq u := by
  obtain ⟨hbelow, hlow, hhigh, habove⟩ := productMag_ends u
  have hmono := productMag_monotone u
  constructor
  · rintro ⟨hmin, hmax⟩
    have hlt := hmono.reflect_lt (hbelow.trans_le hmin)
    have hgt := hmono.reflect_lt (hmax.trans_lt habove)
    omega
  · rintro ⟨hlo, hhi⟩
    exact ⟨hlow.trans (hmono hlo), (hmono hhi).trans hhigh⟩

theorem freqRange_finite (u : OscUnit) : 0 < lowestFreq u ∧ highestFreq u < infMag := by cases u <;> decide

/-- The accepted patterns of a unit form an interval (rule R160). -/
theorem oscFreqOk_iff (u : OscUnit) (f : F32) :
    oscFreqOk u f = true ↔ lowestFreq u ≤ f.toNat ∧ f.toNat ≤ highestFreq u := by
  rw [oscFreqOk_iff_productMag, productMag_accepted_iff]
  constructor
  · rintro ⟨-, hs, hrange⟩
    have hpattern : f.toNat = fmag f := by simpa [hs] using toNat_eq_fmag f
    rwa [hpattern]
  · intro hrange
    have hfinite := (freqRange_finite u).2
    obtain ⟨hs, hmag, hfin⟩ := positive_of_toNat_lt (f := f) (by omega)
    rw [hmag]
    exact ⟨isNaN_of_isFinite hfin, hs, hrange⟩

/-! #### The period of step 3 of rule R152 -/

/-- The effective rate is a positive number (rule R129). -/
theorem effRate_positive (u : OscUnit) : isFinite (effRate u) ∧ fsign (effRate u) = false := by
  unfold isFinite
  cases u <;> decide

/-- A higher positive frequency has no longer period. -/
theorem oscPeriod_antitone (u : OscUnit) {f g : F32} (hf : 0 < f.toNat) (hfg : f.toNat ≤ g.toNat)
    (hg : g.toNat < infMag) : oscPeriod u g ≤ oscPeriod u f := by
  have hquotient : ∀ x : F32, 0 < x.toNat → x.toNat < infMag →
      fdiv (effRate u) x = fpack false (roundMag (absUnits (effRate u) * oneUnit) (magUnits x.toNat)) := by
    intro x hpos hlt
    obtain ⟨hs, hmag, hfin⟩ := positive_of_toNat_lt hlt
    obtain ⟨hrate, hrateSign⟩ := effRate_positive u
    have hz : isZero x = false := by simp [isZero, hmag]; omega
    rw [fdiv_of_isFinite hrate hfin hz, hs, hrateSign, absUnits, absUnits, hmag]
    rfl
  rw [oscPeriod, oscPeriod, hquotient f hf (by omega), hquotient g (by omega) hg]
  refine f2nRound_fpack_mono (roundMag_mono ?_ ?_ ?_) (roundMag_le _ _)
  · exact magUnits_pos (by omega)
  · exact magUnits_pos hf
  · exact Nat.mul_le_mul_left _ (magUnits_mono hfg)

/-- The sizes at the two ends of the range (rule R160). -/
theorem oscPeriod_ends (u : OscUnit) :
    oscPeriod u (BitVec.ofNat 32 (lowestFreq u)) = Config.OSC_BUF_CAP ∧
      oscPeriod u (BitVec.ofNat 32 (highestFreq u)) = 2 := by
  cases u <;> decide

/-- Every accepted frequency has a period that fits the buffer (rule R161). -/
theorem oscPeriod_bounds {u : OscUnit} {f : F32} (h : oscFreqOk u f = true) :
    2 ≤ oscPeriod u f ∧ oscPeriod u f ≤ Config.OSC_BUF_CAP := by
  obtain ⟨hlo, hhi⟩ := (oscFreqOk_iff u f).1 h
  obtain ⟨hlow, hhigh⟩ := oscPeriod_ends u
  obtain ⟨hpos, hfinite⟩ := freqRange_finite u
  have hlowNat : (BitVec.ofNat 32 (lowestFreq u)).toNat = lowestFreq u := by cases u <;> rfl
  have hhighNat : (BitVec.ofNat 32 (highestFreq u)).toNat = highestFreq u := by cases u <;> rfl
  rw [← hlow, ← hhigh]
  exact ⟨oscPeriod_antitone u (by omega) (by omega) (by omega),
    oscPeriod_antitone u (by omega) (by omega) (by omega)⟩

/-- Settles O22: the product of step 2 and the period of step 3 are monotone in the pattern, so their values
at the ends of the ranges and beside them decide. -/
theorem acceptedFrequencyRanges : Obligations.AcceptedFrequencyRanges :=
  ⟨(oscPeriod_ends .osc1).1, (oscPeriod_ends .osc1).2, (oscPeriod_ends .lfo).1, (oscPeriod_ends .lfo).2,
    fun f => ⟨fun _ => oscPeriod_bounds, oscFreqOk_iff .osc1 f, oscFreqOk_iff .osc2 f, oscFreqOk_iff .lfo f⟩⟩

end Sys2Proof.Machine


/-! ### The oscillator unit (rules R152 to R159 and R212) -/

namespace Sys2Proof.Machine

/-! #### The outcomes of `OscUpdate`, one rule each (step 4 never rejects) -/

/-- A word below 3 names a waveform (rule R24). -/
theorem waveOfWord_eq_some_of_lt {x : Word} (h : x.toNat < 3) : ∃ w, waveOfWord? x = some w :=
  Option.ne_none_iff_exists'.1 fun hnone => absurd ((waveOfWord_eq_none_iff x).1 hnone) (by omega)

section
variable {u : OscUnit} {new : OscRequest} {w : Wave}

/-- Step 1 of rule R152. -/
theorem oscUpdate_reserved_wave (s : State) (hwave : 3 ≤ new.waveWord.toNat) :
    oscUpdate u new s = ([.illegal], s) := by
  rw [oscUpdate, oscCheck, (waveOfWord_eq_none_iff _).2 hwave]

/-- Step 2. -/
theorem oscUpdate_rejected_freq (s : State) (hwave : new.waveWord.toNat < 3)
    (hfreq : oscFreqOk u new.freq = false) : oscUpdate u new s = ([.freq], s) := by
  obtain ⟨w, hw⟩ := waveOfWord_eq_some_of_lt hwave
  simp [oscUpdate, oscCheck, hw, hfreq]

/-- Steps 3 to 5: with the decided parameters step 4 never rejects (rule R161). -/
theorem oscUpdate_accepted (s : State) (hwave : new.waveWord = waveToWord w)
    (hfreq : oscFreqOk u new.freq = true) :
    oscUpdate u new s = ([], oscStore u new w (oscPeriod u new.freq) s) := by
  obtain ⟨hmin, hmax⟩ := oscPeriod_bounds hfreq
  have hfits : ¬(oscPeriod u new.freq < 2 ∨ Config.OSC_BUF_CAP < oscPeriod u new.freq) := by omega
  simp only [oscUpdate, oscCheck, hwave, waveOfWord_waveToWord, hfreq, if_true, if_neg hfits]

end

/-- Settles O19: one rule a clause, and the frames of `OscUpdate`. -/
theorem oscUpdateProcedure : Obligations.OscUpdateProcedure := by
  intro u new s p N
  have hok : oscFreqOk u new.freq = true ↔ fle fMin p = true ∧ fle p fMax = true := Bool.and_eq_true_iff
  refine ⟨oscUpdate_reserved_wave s, fun hwave hfreq => ?rejected, fun w hwave hmin hmax => ?legal⟩
  case rejected => exact oscUpdate_rejected_freq s hwave (by rwa [← hok, Bool.not_eq_true] at hfreq)
  case legal =>
    have hfreq := hok.2 ⟨hmin, hmax⟩
    have hstore : oscUpdate u new s = ([], oscStore u new w N s) := oscUpdate_accepted s hwave hfreq
    have hfits : ¬(N < 2 ∨ Config.OSC_BUF_CAP < N) := by
      have hbounds : 2 ≤ N ∧ N ≤ Config.OSC_BUF_CAP := oscPeriod_bounds hfreq
      omega
    have hosc := fun v (hv : v ≠ u) => oscUpdate_sameOsc (v := v) new s hv
    have henv := oscUpdate_sameEnv u new s
    obtain ⟨hrest, hsynth, hresult, herr, -⟩ := oscUpdate_rest u new s
    rw [hstore] at hosc henv hrest hsynth hresult herr
    rw [if_neg hfits]
    exact ⟨_, hstore, PerUnit.get_set_same _ _ _, PerUnit.get_set_same _ _ _,
      fun k hk => oscStore_read_lt u new w s hk, fun k hk => oscStore_read_ge u new w s hk,
      hosc, henv, hsynth, hrest, hresult, herr⟩

/-! #### The four commands -/

theorem rejUnit_eq_shift (u : OscUnit) : rejUnit u = 0x100#32 <<< u.index := by cases u <;> rfl

/-- Settles O20: each command reports the outcome of its `OscUpdate`. -/
theorem oscCommandsReport : Obligations.OscCommandsReport := by
  intro u s stg act ends
  have hends : ∀ new, oscCommand u new s = ends new := fun new => by
    unfold oscCommand rejected
    rw [rejUnit_eq_shift]
    rfl
  exact ⟨hends _, hends _, hends _, hends _⟩

/-- A command whose record passes the checks reports success and leaves the record and its whole period in the
unit. -/
theorem oscCommand_accepted {u : OscUnit} {new : OscRequest} {w : Wave} (s : State)
    (hwave : new.waveWord = waveToWord w) (hfreq : oscFreqOk u new.freq = true) :
    ∃ t, oscCommand u new s = .next t ∧ t.result = 0 ∧ t.err = s.err ∧
      t.act.osc.get u = { amplitude := new.amp, frequency := new.freq, waveform := w } ∧
      t.oscSize.get u = oscPeriod u new.freq ∧
      ∀ k < oscPeriod u new.freq,
        t.mem.read (.osc u) k = generateEntry w new.amp (oscPeriod u new.freq) k := by
  have hcommand : oscCommand u new s = .next ((oscStore u new w (oscPeriod u new.freq) s).report 0) := by
    rw [oscCommand, oscUpdate_accepted s hwave hfreq, rejected_nil]
  exact ⟨_, hcommand, rfl, by simp, PerUnit.get_set_same _ _ _, PerUnit.get_set_same _ _ _,
    fun k hk => oscStore_read_lt u new w s hk⟩

/-- The active frequency of a configured unit is an accepted one (rule R44 (b)). -/
theorem OscValid.freqOk {s : State} {u : OscUnit} (h : OscValid s u) :
    oscFreqOk u (s.act.osc.get u).frequency = true := by
  obtain ⟨hcheck, -⟩ := h
  obtain ⟨e, -⟩ | ⟨e, -⟩ | ⟨e, -⟩ | ⟨w, -, -, hfreq, -⟩ := oscCheck_cases u (s.actOsc u)
  · simp [e] at hcheck
  · simp [e] at hcheck
  · simp [e] at hcheck
  · exact hfreq

/-- A command whose frequency fails step 2 reports E_FREQ and REJ(u) and changes nothing else. -/
theorem oscCommand_rejected_freq {u : OscUnit} {new : OscRequest} (s : State)
    (hwave : new.waveWord.toNat < 3) (hfreq : oscFreqOk u new.freq = false) :
    oscCommand u new s = .next (s.report (0x001 ||| rejUnit u)) := by
  have hcodes : codesWord [.freq] = 0x001 := by decide
  rw [oscCommand, oscUpdate_rejected_freq s hwave hfreq, rejected_of_ne_nil (by simp), hcodes]

theorem waveToWord_lt (w : Wave) : (waveToWord w).toNat < 3 := by cases w <;> decide

/-- The frequency of the reset record is rejected on every unit. -/
theorem oscFreqOk_reset (u : OscUnit) : oscFreqOk u OscParams.reset.frequency = false := by
  cases u <;> decide

/-- Settles O21: the record each command hands to `OscUpdate` passes its checks. -/
theorem oscCommandsSucceed : Obligations.OscCommandsSucceed := by
  refine fun u s => ⟨fun _ hwave hfreq => oscCommand_accepted s hwave hfreq,
    fun hfreq => oscCommand_accepted s rfl hfreq,
    fun hinv hsize => oscCommand_accepted s rfl (hinv.osc_valid u hsize).freqOk,
    fun hinv hsize => oscCommand_rejected_freq s (waveToWord_lt _) ?unconfigured,
    fun _ hinv hsize hwave => oscCommand_accepted s hwave (hinv.osc_valid u hsize).freqOk⟩
  case unconfigured =>
    rw [State.actOsc, hinv.osc_unconfigured u hsize]
    exact oscFreqOk_reset u

/-! #### The two lookups -/

/-- The two audible oscillators run at the device rate, so OSC1's phase is the offset modulo its size (rule
R150). -/
theorem oscPhase_osc1 (s : State) (g : Word) : oscPhase .osc1 s g = g.toNat % s.oscSize.osc1 := by
  rw [oscPhase, Config.DS, Nat.div_one]
  rfl

/-- Settles O23. -/
theorem oscLookups : Obligations.OscLookups := by
  refine fun s u g => ⟨rfl, ?_⟩
  rw [osc2SyncAt, oscPhase_osc1]
  rfl

/-- One period further the phase is the same, unless the offset wraps (rule R159 (d)). -/
theorem oscPhase_add_period {s : State} {u : OscUnit} {g : Word}
    (h : g.toNat + s.oscSize.get u * Config.DS u < 2 ^ 32) :
    oscPhase u s (g + BitVec.ofNat 32 (s.oscSize.get u * Config.DS u)) = oscPhase u s g := by
  have hds : 0 < Config.DS u := by cases u <;> decide
  have hoffset : (g + BitVec.ofNat 32 (s.oscSize.get u * Config.DS u)).toNat =
      g.toNat + s.oscSize.get u * Config.DS u := by
    rw [BitVec.toNat_add, BitVec.toNat_ofNat, Nat.add_mod_mod, Nat.mod_eq_of_lt h]
  rw [oscPhase, oscPhase, hoffset, Nat.add_mul_div_right _ _ hds, Nat.add_mod_right]

/-- Settles O24. -/
theorem oscPeriodicBelowWrap : Obligations.OscPeriodicBelowWrap := fun s u g _ hwrap => by
  rw [oscSampleAt, oscSampleAt, oscPhase_add_period hwrap]

/-- Settles O25: the position in OSC2's period is OSC1's phase modulo OSC2's size. -/
theorem hardSyncRestartsOsc2 : Obligations.HardSyncRestartsOsc2 := by
  intro s g h1 h2
  have hsync : osc2SyncAt s g = s.mem.read (.osc .osc2) (g.toNat % s.oscSize.osc1 % s.oscSize.osc2) := by
    rw [(oscLookups s .osc2 g).2, if_neg (by simp [h1, h2])]
  have hfree : oscSampleAt .osc2 s g = s.mem.read (.osc .osc2) (g.toNat % s.oscSize.osc2) := by
    rw [(oscLookups s .osc2 g).1, if_neg (show s.oscSize.get .osc2 ≠ 0 from h2), Config.DS, Nat.div_one]
    rfl
  rw [hsync, hfree]
  exact ⟨fun hphase => by rw [hphase, Nat.zero_mod], fun hdvd => by rw [Nat.mod_mod_of_dvd _ hdvd]⟩

end Sys2Proof.Machine


/-! ### The envelope generator (rules R171 to R180) -/

namespace Sys2Proof.Machine

/-! #### The curves and the outcomes of `EnvUpdate`, one rule each -/

/-- The decay segment begins where the attack segment ends (rule R174). -/
theorem adEntry_attack_add (p : EnvParams) (aS j : Nat) : adEntry p aS (aS + j) = decayEntry p j := by
  rw [adEntry, if_neg (by omega), Nat.add_sub_cancel_left]

/-- Settles O26: the two branches of the attack-decay curve, and the formula of the release entry. -/
theorem envCurvesFollowFormulas : Obligations.EnvCurvesFollowFormulas :=
  fun p aS k _ => ⟨fun hk => if_pos hk, adEntry_attack_add p aS k, rfl⟩

theorem envRangesOk_iff (p : EnvParams) :
    envRangesOk p = true ↔ flt 0 p.attack = true ∧ flt 0 p.decay = true ∧ flt 0 p.release = true ∧
      fle 0 p.sustain = true ∧ fle p.sustain c1 = true := by
  simp [envRangesOk, and_assoc]

/-- The lengths step 3 of rule R172 rejects. -/
abbrev EnvLengths.TooLong (z : EnvLengths) : Prop :=
  Config.ENV_AD_CAP < z.attack + z.decay ∨ Config.ENV_REL_CAP < z.release

section
variable {p : EnvParams}

/-- Step 1 of rule R172. -/
theorem envUpdate_rejected_range (s : State) (hrange : envRangesOk p = false) :
    envUpdate p s = ([.env], s) := by
  simp [envUpdate, envCheck, hrange]

/-- Step 3. -/
theorem envUpdate_rejected_capacity (s : State) (hrange : envRangesOk p = true)
    (hlong : (envLengths p).TooLong) : envUpdate p s = ([.env, .cap], s) := by
  rw [envUpdate, envCheck, if_pos hrange, if_pos hlong]

/-- Step 4. -/
theorem envUpdate_rejected_empty (s : State) (hrange : envRangesOk p = true)
    (hlong : ¬(envLengths p).TooLong) (hempty : (envLengths p).attack + (envLengths p).decay = 0) :
    envUpdate p s = ([.env], s) := by
  rw [envUpdate, envCheck, if_pos hrange, if_neg hlong, if_pos hempty]

/-- Step 5. -/
theorem envUpdate_accepted (s : State) (hrange : envRangesOk p = true) (hlong : ¬(envLengths p).TooLong)
    (hempty : (envLengths p).attack + (envLengths p).decay ≠ 0) :
    envUpdate p s = ([], envStore p (envLengths p) s) := by
  rw [envUpdate, envCheck, if_pos hrange, if_neg hlong, if_neg hempty]

end

/-- Settles O27: one rule a clause, and the frames of `EnvUpdate`. -/
theorem envUpdateProcedure : Obligations.EnvUpdateProcedure := by
  intro p s samples aS dS rS inRange tooLong
  have hok : envRangesOk p = true ↔ inRange := envRangesOk_iff p
  refine ⟨fun hrange => ?_, fun hrange => envUpdate_rejected_capacity s (hok.2 hrange),
    fun hrange => envUpdate_rejected_empty s (hok.2 hrange), fun hrange hlong hempty => ?accepted⟩
  · exact envUpdate_rejected_range s (by rwa [← hok, Bool.not_eq_true] at hrange)
  case accepted =>
    have hstore := envUpdate_accepted s (hok.2 hrange) hlong hempty
    have hosc := fun u => envUpdate_sameOsc p u s
    obtain ⟨hrest, hsynth, hresult, herr, -⟩ := envUpdate_rest p s
    rw [hstore] at hrest hsynth hresult herr
    simp only [hstore] at hosc
    exact ⟨_, hstore, rfl, rfl, rfl, rfl, fun k hk => envStore_read_ad_lt p _ s hk,
      fun k hk => envStore_read_rel_lt p _ s hk, fun k hk => envStore_read_ad_ge p _ s hk,
      fun k hk => envStore_read_rel_ge p _ s hk, hosc, hsynth, hrest, hresult, herr⟩

/-- A staged operand is a word of STG. -/
theorem stgWord_eq_getElem (s : State) {i : Nat} (h : i < 16) : s.stgWord i = s.stg[i] := by
  simp [State.stgWord, h]

/-- The staged record is words 9 to 13 of STG (rule R180). -/
theorem stgEnv_eq (s : State) :
    s.stgEnv = { attack := s.stg[9], decay := s.stg[10], release := s.stg[11], sustain := s.stg[12],
                 amplitude := s.stg[13] } := by
  simp [State.stgEnv, stgWord_eq_getElem]

/-- Settles O28: a record that passes the checks is stored, and nothing is reported. -/
theorem envUpdateCommandReports : Obligations.EnvUpdateCommandReports := by
  intro s new c t r
  have hexec : exec .envUpdate s = .next (t.report r) := by
    rw [exec, execEnvUpdate, stgEnv_eq]
    rfl
  refine ⟨hexec, fun z hz => ⟨_, hexec, ?_⟩⟩
  have hupdate : envUpdate new s = ([], envStore new z s) := by rw [envUpdate, hz]
  have ht : t = envStore new z s := by simp only [t, hupdate]
  have hr : r = 0 := by simp only [r, c, hupdate]; exact rejected_nil 0x800
  rw [ht, hr]
  exact ⟨rfl, BitVec.or_zero, rfl, rfl, rfl, rfl⟩

/-! #### The lookup `EnvValueAt`, one rule a branch -/

/-- Settles O29. -/
theorem envValueAtProcedure : Obligations.EnvValueAtProcedure := fun _ _ => rfl

section
variable {s : State} {g : Word}

/-- After the release mark the release curve decides, whatever the trigger mark (rule R179 (e)). -/
theorem envValueAt_after_release (hconf : s.adSize ≠ 0) (hrel : s.relOfs.toNat < g.toNat) :
    envValueAt s g = releaseLookup s ((g.toNat - s.relOfs.toNat) / Config.DS_ENV) := by
  rw [envValueAt, if_neg hconf, if_pos hrel]

/-- After the trigger mark alone the attack-decay curve decides. -/
theorem envValueAt_after_trigger (hconf : s.adSize ≠ 0) (hrel : g.toNat ≤ s.relOfs.toNat)
    (htrig : s.trigOfs.toNat < g.toNat) :
    envValueAt s g = attackDecayLookup s ((g.toNat - s.trigOfs.toNat) / Config.DS_ENV) := by
  rw [envValueAt, if_neg hconf, if_neg (by omega), if_pos htrig]

/-- Before both marks, and at them, there is silence. -/
theorem envValueAt_before_marks (hrel : g.toNat ≤ s.relOfs.toNat) (htrig : g.toNat ≤ s.trigOfs.toNat) :
    envValueAt s g = 0 := by
  rw [envValueAt, if_neg (not_lt.2 hrel), if_neg (not_lt.2 htrig), ite_self]

/-- The last attack-decay entry is held beyond the curve. -/
theorem attackDecayLookup_eq_min (idx : Nat) :
    attackDecayLookup s idx = s.mem.read .ad (min idx (s.adSize - 1)) := by
  unfold attackDecayLookup
  split
  · rw [min_eq_left (by omega)]
  · rw [min_eq_right (by omega)]

/-- No offset is after the sentinel (rule R179 (c)). -/
theorem toNat_le_of_eq_sentinel {mark : Word} (h : mark = 0xFFFFFFFF) (g : Word) : g.toNat ≤ mark.toNat := by
  rw [h]
  exact Nat.le_of_lt_succ g.isLt

/-- While the note is held, the attack-decay curve is heard after the trigger mark and its last entry from
there on. -/
theorem envValueAt_held (hconf : s.adSize ≠ 0) (hheld : s.relOfs = 0xFFFFFFFF) :
    envValueAt s g =
      if s.trigOfs.toNat < g.toNat then
        s.mem.read .ad (min ((g.toNat - s.trigOfs.toNat) / 100) (s.adSize - 1))
      else 0 := by
  have hrel := toNat_le_of_eq_sentinel hheld g
  split
  case isTrue htrig => rw [envValueAt_after_trigger hconf hrel htrig, attackDecayLookup_eq_min, Config.DS_ENV]
  case isFalse htrig => exact envValueAt_before_marks hrel (by omega)

end

/-- Settles O30: each clause lies in one branch of the lookup. -/
theorem envMarksConsequences : Obligations.EnvMarksConsequences := by
  intro s g hconf
  refine ⟨fun hmarks => envValueAt_before_marks hmarks le_rfl, fun hmarks hidx => ?atRelease,
    envValueAt_held hconf, fun hheld hend => ?sustain, fun hheld hnever => ?never,
    fun hrel hnear hsize => ?releaseStart, fun hend hrel => ?releaseEnd⟩
  case atRelease =>
    rw [envValueAt_after_trigger hconf le_rfl hmarks, attackDecayLookup, Config.DS_ENV, if_pos hidx]
  case sustain =>
    rw [envValueAt_held hconf hheld, if_pos (by omega), min_eq_right (by omega)]
  case never =>
    exact envValueAt_before_marks (toNat_le_of_eq_sentinel hheld g) (toNat_le_of_eq_sentinel hnever g)
  case releaseStart =>
    have hidx : (g.toNat - s.relOfs.toNat) / Config.DS_ENV = 0 := Nat.div_eq_of_lt (by rw [Config.DS_ENV]; omega)
    rw [envValueAt_after_release hconf hrel, hidx, releaseLookup, if_pos hsize]
  case releaseEnd =>
    rw [envValueAt_after_release hconf hrel, releaseLookup, Config.DS_ENV, if_neg (by omega)]

end Sys2Proof.Machine


/-! ### The envelope's curves are monotone (rule R175 (f)) -/

namespace Sys2Proof.Machine

/-! #### Order and finiteness of values that are not negative -/

/-- The pattern is finite and not negative (-0 is not). -/
structure FiniteNonneg (a : F32) : Prop where
  finite : isFinite a
  nonneg : fle 0 a = true

/-- The pattern is finite and above 0. -/
structure FinitePos (a : F32) : Prop where
  finite : isFinite a
  pos : flt 0 a = true

/-- The pattern lies between 0 and 1. -/
structure InUnit (a : F32) : Prop where
  nonneg : fle 0 a = true
  le_one : fle a c1 = true

theorem fle_trans {a b c : F32} (hab : fle a b = true) (hbc : fle b c = true) : fle a c = true := by
  obtain ⟨ha, -, hle⟩ := of_fle hab
  obtain ⟨-, hc, hle'⟩ := of_fle hbc
  exact (fle_iff ha hc).2 (hle.trans hle')

theorem orderKey_fneg (a : F32) : orderKey (fneg a) = -orderKey a := by
  rw [orderKey, orderKey, fsign_fneg, fmag_fneg]
  cases fsign a <;> simp

/-- Negation turns the order around. -/
theorem fle_fneg {a b : F32} (h : fle a b = true) : fle (fneg b) (fneg a) = true := by
  obtain ⟨ha, hb, hle⟩ := of_fle h
  rw [fle_iff (by rwa [isNaN_fneg]) (by rwa [isNaN_fneg]), orderKey_fneg, orderKey_fneg]
  exact neg_le_neg hle

/-- Not negative: a number that is a zero if its sign is set. -/
theorem zero_fle_iff (a : F32) : fle 0 a = true ↔ isNaN a = false ∧ (fsign a = true → fmag a = 0) := by
  have hkey : orderKey 0 = 0 := by decide
  cases ha : isNaN a
  case true => simp [fle_of_isNaN_right ha]
  case false =>
    rw [fle_iff (by decide) ha, hkey, orderKey]
    cases fsign a <;> simp

/-- Above 0: a number with its sign clear and a magnitude. -/
theorem of_zero_flt {a : F32} (h : flt 0 a = true) : isNaN a = false ∧ fsign a = false ∧ isZero a = false := by
  have hkey : orderKey 0 = 0 := by decide
  cases hnan : isNaN a
  case true => simp [flt_of_isNaN_right hnan] at h
  case false =>
    rw [flt_iff (by decide) hnan, hkey, orderKey] at h
    cases hs : fsign a
    case true => simp [hs] at h; omega
    case false => simpa [isZero, hs, Nat.pos_iff_ne_zero] using h

/-- Values that are not negative are ordered by their magnitudes. -/
theorem fle_iff_fmag_le {a b : F32} (ha : fle 0 a = true) (hb : fle 0 b = true) :
    fle a b = true ↔ fmag a ≤ fmag b := by
  obtain ⟨hna, hza⟩ := (zero_fle_iff a).1 ha
  obtain ⟨hnb, hzb⟩ := (zero_fle_iff b).1 hb
  have hkey : ∀ x, (fsign x = true → fmag x = 0) → orderKey x = fmag x := fun x hx => by
    rw [orderKey]
    split
    case isTrue hs => simp [hx hs]
    case isFalse => rfl
  rw [fle_iff hna hnb, hkey a hza, hkey b hzb, Nat.cast_le]

theorem absUnits_le_of_fle {a b : F32} (ha : fle 0 a = true) (hab : fle a b = true) :
    absUnits a ≤ absUnits b :=
  magUnits_mono ((fle_iff_fmag_le ha (fle_trans ha hab)).1 hab)

/-- What is not negative and not above a finite value is finite. -/
theorem FiniteNonneg.of_fle {a b : F32} (ha : fle 0 a = true) (hab : fle a b = true) (hb : isFinite b) :
    FiniteNonneg a :=
  ⟨((fle_iff_fmag_le ha (fle_trans ha hab)).1 hab).trans_lt hb, ha⟩

theorem isFinite_c1 : isFinite c1 := by
  unfold isFinite
  decide

theorem absUnits_c1 : absUnits c1 = oneUnit := by decide

theorem InUnit.finiteNonneg {a : F32} (h : InUnit a) : FiniteNonneg a := .of_fle h.nonneg h.le_one isFinite_c1

/-- The units of a sign that may only be set on a zero. -/
theorem FiniteNonneg.absUnits_eq_zero {a : F32} (h : FiniteNonneg a) (hs : fsign a = true) : absUnits a = 0 :=
  magUnits_eq_zero_iff.2 (((zero_fle_iff a).1 h.nonneg).2 hs)

theorem FiniteNonneg.units_eq {a : F32} (h : FiniteNonneg a) : units a = absUnits a := by
  rw [units]
  split
  case isTrue hs => simp [h.absUnits_eq_zero hs]
  case isFalse => rfl

theorem zero_fle_fpack {sign : Bool} {m : Nat} (hm : m ≤ infMag) (hz : sign = true → m = 0) :
    fle 0 (fpack sign m) = true := by
  rw [zero_fle_iff, fsign_fpack hm, fmag_fpack hm]
  exact ⟨isNaN_fpack hm, hz⟩

theorem roundMag_zero_left (d : Nat) : roundMag 0 d = 0 := by
  rcases Nat.eq_zero_or_pos d with rfl | hd
  · decide
  · simpa [magUnits] using roundMag_magUnits (m := 0) hd (Nat.zero_le _)

/-! #### Conversions, products, quotients and differences from 1 -/

theorem zero_fle_u2f (n : Nat) : fle 0 (u2f n) = true :=
  zero_fle_fpack (roundMag_le _ _) (by simp)

theorem u2f_mono {m n : Nat} (h : m ≤ n) : fle (u2f m) (u2f n) = true := by
  rw [fle_iff_fmag_le (zero_fle_u2f m) (zero_fle_u2f n), u2f, u2f, fmag_fpack (roundMag_le _ _),
    fmag_fpack (roundMag_le _ _)]
  exact roundMag_mono one_pos one_pos (Nat.mul_le_mul_right _ (Nat.mul_le_mul_right _ h))

section
variable {a a' b b' : F32}

theorem FiniteNonneg.fmul_eq (ha : FiniteNonneg a) (hb : FiniteNonneg b) :
    fmul a b = fpack (fsign a != fsign b) (roundMag (absUnits a * absUnits b) oneUnit) := by
  simp [fmul, isNaN_of_isFinite ha.finite, isNaN_of_isFinite hb.finite, isInf_of_isFinite ha.finite,
    isInf_of_isFinite hb.finite]

theorem FiniteNonneg.fmag_fmul (ha : FiniteNonneg a) (hb : FiniteNonneg b) :
    fmag (fmul a b) = roundMag (absUnits a * absUnits b) oneUnit := by
  rw [ha.fmul_eq hb, fmag_fpack (roundMag_le _ _)]

theorem FiniteNonneg.fmul_comm (ha : FiniteNonneg a) (hb : FiniteNonneg b) : fmul a b = fmul b a := by
  rw [ha.fmul_eq hb, hb.fmul_eq ha, Nat.mul_comm, bne_comm]

theorem FiniteNonneg.zero_fle_fmul (ha : FiniteNonneg a) (hb : FiniteNonneg b) : fle 0 (fmul a b) = true := by
  rw [ha.fmul_eq hb]
  refine zero_fle_fpack (roundMag_le _ _) fun hs => ?_
  have hzero : absUnits a * absUnits b = 0 := by
    cases hsa : fsign a
    case true => rw [ha.absUnits_eq_zero hsa, Nat.zero_mul]
    case false =>
      rw [hsa, Bool.false_bne] at hs
      rw [hb.absUnits_eq_zero hs, Nat.mul_zero]
  rw [hzero, roundMag_zero_left]

/-- A product is monotone in its right factor. -/
theorem FiniteNonneg.fmul_mono (ha : FiniteNonneg a) (hb : FiniteNonneg b) (hb' : FiniteNonneg b')
    (h : fle b b' = true) : fle (fmul a b) (fmul a b') = true := by
  rw [fle_iff_fmag_le (ha.zero_fle_fmul hb) (ha.zero_fle_fmul hb'), ha.fmag_fmul hb, ha.fmag_fmul hb']
  exact roundMag_mono oneUnit_pos oneUnit_pos
    (Nat.mul_le_mul_right _ (Nat.mul_le_mul_left _ (absUnits_le_of_fle hb.nonneg h)))

/-- A factor of at most 1 does not enlarge. -/
theorem FiniteNonneg.fmul_fle_left (ha : FiniteNonneg a) (hb : InUnit b) : fle (fmul a b) a = true := by
  rw [fle_iff_fmag_le (ha.zero_fle_fmul hb.finiteNonneg) ha.nonneg, ha.fmag_fmul hb.finiteNonneg]
  have hle : absUnits b ≤ oneUnit := absUnits_c1 ▸ absUnits_le_of_fle hb.nonneg hb.le_one
  calc roundMag (absUnits a * absUnits b) oneUnit
      ≤ roundMag (absUnits a * oneUnit) oneUnit :=
        roundMag_mono oneUnit_pos oneUnit_pos (Nat.mul_le_mul_right _ (Nat.mul_le_mul_left _ hle))
    _ = fmag a := roundMag_magUnits oneUnit_pos (le_of_lt ha.finite)

theorem FiniteNonneg.fmul_unit (ha : FiniteNonneg a) (hb : InUnit b) : FiniteNonneg (fmul a b) :=
  .of_fle (ha.zero_fle_fmul hb.finiteNonneg) (ha.fmul_fle_left hb) ha.finite

theorem InUnit.fmul (ha : InUnit a) (hb : InUnit b) : InUnit (fmul a b) :=
  ⟨ha.finiteNonneg.zero_fle_fmul hb.finiteNonneg, fle_trans (ha.finiteNonneg.fmul_fle_left hb) ha.le_one⟩

theorem FiniteNonneg.fdiv_eq (ha : FiniteNonneg a) (hb : FinitePos b) :
    fdiv a b = fpack (fsign a) (roundMag (absUnits a * oneUnit) (absUnits b)) := by
  obtain ⟨-, hsign, hzero⟩ := of_zero_flt hb.pos
  rw [fdiv_of_isFinite ha.finite hb.finite hzero, hsign, Bool.bne_false]

theorem FiniteNonneg.zero_fle_fdiv (ha : FiniteNonneg a) (hb : FinitePos b) : fle 0 (fdiv a b) = true := by
  rw [ha.fdiv_eq hb]
  refine zero_fle_fpack (roundMag_le _ _) fun hs => ?_
  rw [ha.absUnits_eq_zero hs, Nat.zero_mul, roundMag_zero_left]

/-- A quotient is monotone in the dividend. -/
theorem FiniteNonneg.fdiv_mono (ha : FiniteNonneg a) (ha' : FiniteNonneg a') (hb : FinitePos b)
    (h : fle a a' = true) : fle (fdiv a b) (fdiv a' b) = true := by
  obtain ⟨-, -, hzero⟩ := of_zero_flt hb.pos
  have hpos := Nat.pos_of_ne_zero (absUnits_ne_zero hzero)
  rw [fle_iff_fmag_le (ha.zero_fle_fdiv hb) (ha'.zero_fle_fdiv hb), ha.fdiv_eq hb, ha'.fdiv_eq hb,
    fmag_fpack (roundMag_le _ _), fmag_fpack (roundMag_le _ _)]
  exact roundMag_mono hpos hpos
    (Nat.mul_le_mul_right _ (Nat.mul_le_mul_right _ (absUnits_le_of_fle ha.nonneg h)))

/-- The difference from 1 is the exact one, rounded. -/
theorem InUnit.one_sub_eq (ha : InUnit a) : fsub c1 a = fpack false (roundMag (oneUnit - absUnits a) 1) := by
  have hfin : isFinite (fneg a) := isFinite_fneg.2 ha.finiteNonneg.finite
  have hle : absUnits a ≤ oneUnit := absUnits_c1 ▸ absUnits_le_of_fle ha.nonneg ha.le_one
  have hone : units c1 = oneUnit := by decide
  have hunits : units c1 + units (fneg a) = (oneUnit - absUnits a : Nat) := by
    rw [units_fneg, ha.finiteNonneg.units_eq, hone, Nat.cast_sub hle, sub_eq_add_neg]
  have hsign : fsign c1 = false := by decide
  simp only [fsub, addWith, isNaN_of_isFinite isFinite_c1, isInf_of_isFinite isFinite_c1, isNaN_of_isFinite hfin,
    isInf_of_isFinite hfin, hunits, hsign, Bool.or_false, Bool.false_and, Bool.false_eq_true, if_false,
    Int.natAbs_natCast]
  split
  case isTrue hzero => rw [Nat.cast_eq_zero.1 hzero, roundMag_zero_left]
  case isFalse => rw [decide_eq_false (not_lt.2 (Int.natCast_nonneg _))]

theorem InUnit.one_sub (ha : InUnit a) : InUnit (fsub c1 a) := by
  have hnonneg : fle 0 (fsub c1 a) = true := by
    rw [ha.one_sub_eq]
    exact zero_fle_fpack (roundMag_le _ _) (by simp)
  refine ⟨hnonneg, ?_⟩
  rw [fle_iff_fmag_le hnonneg (by decide), ha.one_sub_eq, fmag_fpack (roundMag_le _ _)]
  calc roundMag (oneUnit - absUnits a) 1
      ≤ roundMag oneUnit 1 := roundMag_mono one_pos one_pos (Nat.mul_le_mul_right _ (Nat.sub_le _ _))
    _ = fmag c1 := by decide

/-- The difference from 1 turns the order around. -/
theorem InUnit.one_sub_antitone (ha : InUnit a) (hb : InUnit b) (h : fle a b = true) :
    fle (fsub c1 b) (fsub c1 a) = true := by
  have hle := absUnits_le_of_fle ha.nonneg h
  rw [fle_iff_fmag_le hb.one_sub.nonneg ha.one_sub.nonneg, ha.one_sub_eq, hb.one_sub_eq,
    fmag_fpack (roundMag_le _ _), fmag_fpack (roundMag_le _ _)]
  exact roundMag_mono one_pos one_pos (Nat.mul_le_mul_right _ (Nat.sub_le_sub_left hle _))

end

/-! #### The decay factor of rule R173, for the entries a buffer can hold -/

section
variable {k k' : Nat} {D : F32}

theorem deviceRate_finitePos : FinitePos (u2f Config.FS) := by
  refine ⟨?_, by decide⟩
  unfold isFinite
  decide

/-- The offset, the time and its triple stay finite up to the last entry of a full buffer. -/
theorem envT_chain_finite :
    isFinite (u2f (4410 * Config.DS_ENV)) ∧ isFinite (envT 4410) ∧ isFinite (fmul c3 (envT 4410)) := by
  unfold isFinite
  decide

theorem envOffset_mono (h : k ≤ k') : fle (u2f (k * Config.DS_ENV)) (u2f (k' * Config.DS_ENV)) = true :=
  u2f_mono (Nat.mul_le_mul_right _ h)

theorem envOffset_finiteNonneg (hk : k ≤ 4410) : FiniteNonneg (u2f (k * Config.DS_ENV)) :=
  .of_fle (zero_fle_u2f _) (envOffset_mono hk) envT_chain_finite.1

theorem envT_mono (h : k ≤ k') (hk' : k' ≤ 4410) : fle (envT k) (envT k') = true :=
  (envOffset_finiteNonneg (h.trans hk')).fdiv_mono (envOffset_finiteNonneg hk') deviceRate_finitePos
    (envOffset_mono h)

theorem envT_finiteNonneg (hk : k ≤ 4410) : FiniteNonneg (envT k) :=
  .of_fle ((envOffset_finiteNonneg hk).zero_fle_fdiv deviceRate_finitePos) (envT_mono hk le_rfl)
    envT_chain_finite.2.1

theorem c3_finiteNonneg : FiniteNonneg c3 := by
  refine ⟨?_, by decide⟩
  unfold isFinite
  decide

theorem tripleT_mono (h : k ≤ k') (hk' : k' ≤ 4410) : fle (fmul c3 (envT k)) (fmul c3 (envT k')) = true :=
  c3_finiteNonneg.fmul_mono (envT_finiteNonneg (h.trans hk')) (envT_finiteNonneg hk') (envT_mono h hk')

theorem tripleT_finiteNonneg (hk : k ≤ 4410) : FiniteNonneg (fmul c3 (envT k)) :=
  .of_fle (c3_finiteNonneg.zero_fle_fmul (envT_finiteNonneg hk)) (tripleT_mono hk le_rfl) envT_chain_finite.2.2

theorem zero_fle_envX (hD : FinitePos D) (hk : k ≤ 4410) : fle 0 (envX k D) = true :=
  (tripleT_finiteNonneg hk).zero_fle_fdiv hD

theorem envX_mono (hD : FinitePos D) (h : k ≤ k') (hk' : k' ≤ 4410) : fle (envX k D) (envX k' D) = true :=
  (tripleT_finiteNonneg (h.trans hk')).fdiv_mono (tripleT_finiteNonneg hk') hD (tripleT_mono h hk')

/-- `e^x` lies between 0 and 1 where `x` is not positive (rule R128 X2). -/
theorem envDecayFactor_inUnit (hD : FinitePos D) (hk : k ≤ 4410) : InUnit (envDecayFactor k D) := by
  obtain ⟨-, -, hrange, -, -⟩ := exponentialProperties
  have hneg : fle (fneg (envX k D)) 0 = true := fle_trans (fle_fneg (zero_fle_envX hD hk)) (by decide)
  obtain ⟨hnonneg, hle⟩ := hrange _ hneg
  exact ⟨hnonneg, hle⟩

/-- The factor does not rise with time (rule R128 X3). -/
theorem envDecayFactor_antitone (hD : FinitePos D) (h : k ≤ k') (hk' : k' ≤ 4410) :
    fle (envDecayFactor k' D) (envDecayFactor k D) = true :=
  fexp_mono (fle_fneg (envX_mono hD h hk'))

end

/-! #### The entries of an accepted envelope -/

/-- What steps 1 to 3 of rule R172 leave of a record that passes, with the lengths `z`. -/
structure AcceptedEnv (p : EnvParams) (z : EnvLengths) : Prop where
  attack : FinitePos p.attack
  decay : FinitePos p.decay
  release : FinitePos p.release
  sustain : InUnit p.sustain
  attack_decay_le : z.attack + z.decay ≤ 4410
  release_le : z.release ≤ 4410

/-- An infinite duration has too many samples for any buffer (rule R172). -/
theorem finitePos_of_envSamples_le {d : F32} (hpos : flt 0 d = true) (hfits : envSamples d ≤ 4410) :
    FinitePos d := by
  obtain ⟨hnan, hsign, -⟩ := of_zero_flt hpos
  have hle : fmag d ≤ infMag := by simpa [isNaN] using hnan
  refine ⟨lt_of_le_of_ne hle fun hinf => ?_, hpos⟩
  have hd : d = fpack false infMag := by rw [← hinf, ← hsign, fpack_fsign_fmag]
  rw [hd] at hfits
  exact absurd hfits (by decide)

theorem acceptedEnv_of_envCheck {p : EnvParams} {z : EnvLengths} (h : envCheck p = .ok z) :
    AcceptedEnv p z := by
  obtain ⟨e, -⟩ | ⟨e, -⟩ | ⟨e, hrange, -, had, hrel⟩ := envCheck_cases p
  · simp [e] at h
  · simp [e] at h
  · obtain rfl : envLengths p = z := by simpa [e] using h
    obtain ⟨ha, hd, hr, hs0, hs1⟩ := (envRangesOk_iff p).1 hrange
    have had' : envSamples p.attack + envSamples p.decay ≤ 4410 := had
    exact ⟨finitePos_of_envSamples_le ha (by omega), finitePos_of_envSamples_le hd (by omega),
      finitePos_of_envSamples_le hr hrel, ⟨hs0, hs1⟩, had, hrel⟩

section
variable {p : EnvParams} {z : EnvLengths}

theorem AcceptedEnv.attackEntry_mono (hp : AcceptedEnv p z) (hA : FiniteNonneg p.amplitude) {k : Nat}
    (hk : k + 1 ≤ 4410) : fle (attackEntry p k) (attackEntry p (k + 1)) = true := by
  have hnow := envDecayFactor_inUnit hp.attack (k.le_succ.trans hk)
  have hnext := envDecayFactor_inUnit hp.attack hk
  exact hA.fmul_mono hnow.one_sub.finiteNonneg hnext.one_sub.finiteNonneg
    (hnext.one_sub_antitone hnow (envDecayFactor_antitone hp.attack k.le_succ hk))

theorem AcceptedEnv.attackEntry_finiteNonneg (hp : AcceptedEnv p z) (hA : FiniteNonneg p.amplitude) {k : Nat}
    (hk : k ≤ 4410) : FiniteNonneg (attackEntry p k) :=
  hA.fmul_unit (envDecayFactor_inUnit hp.attack hk).one_sub

theorem c095_inUnit : InUnit c095 := ⟨by decide, by decide⟩

theorem AcceptedEnv.decayEntry_finiteNonneg (hp : AcceptedEnv p z) (hA : FiniteNonneg p.amplitude) {j : Nat}
    (hj : j ≤ 4410) : FiniteNonneg (decayEntry p j) := by
  have hpeak : FiniteNonneg (fmul c095 p.amplitude) := by
    rw [c095_inUnit.finiteNonneg.fmul_comm hA]
    exact hA.fmul_unit c095_inUnit
  exact hpeak.fmul_unit (hp.sustain.one_sub.fmul (envDecayFactor_inUnit hp.decay hj).one_sub).one_sub

theorem AcceptedEnv.lastEntry_finiteNonneg (hp : AcceptedEnv p z) (hA : FiniteNonneg p.amplitude) :
    FiniteNonneg (lastEntry p z) := by
  have hbound := hp.attack_decay_le
  rw [lastEntry, adEntry]
  split
  · exact hp.attackEntry_finiteNonneg hA (by omega)
  · exact hp.decayEntry_finiteNonneg hA (by omega)

theorem AcceptedEnv.releaseEntry_antitone (hp : AcceptedEnv p z) {last : F32} (hlast : FiniteNonneg last)
    {k : Nat} (hk : k + 1 ≤ 4410) : fle (releaseEntry p last (k + 1)) (releaseEntry p last k) = true :=
  hlast.fmul_mono (envDecayFactor_inUnit hp.release hk).finiteNonneg
    (envDecayFactor_inUnit hp.release (k.le_succ.trans hk)).finiteNonneg
    (envDecayFactor_antitone hp.release k.le_succ hk)

end

/-- Settles O31: both segments are a finite value, not negative, times a factor that is monotone with
`FEXP`. -/
theorem envelopeCurvesMonotone : Obligations.EnvelopeCurvesMonotone := by
  intro p z hcheck hfin hnonneg
  have hp := acceptedEnv_of_envCheck hcheck
  have hA : FiniteNonneg p.amplitude := ⟨hfin, hnonneg⟩
  have had := hp.attack_decay_le
  have hrel := hp.release_le
  refine ⟨fun k hk => ?attack, fun k hk => ?release⟩
  case attack =>
    rw [adEntry, adEntry, if_pos (by omega), if_pos hk]
    exact hp.attackEntry_mono hA (by omega)
  case release => exact hp.releaseEntry_antitone (hp.lastEntry_finiteNonneg hA) (by omega)

end Sys2Proof.Machine


/-! ### The mixing engine (rules R200 to R209 and R291) -/

namespace Sys2Proof.Machine

/-! #### The values of a period -/

/-- In a list that repeats every value `n` times, the copies of value `i` begin at place `i * n`. -/
theorem getElem?_flatMap_replicate {α β : Type} (f : α → β) {n c : Nat} (hc : c < n) (l : List α) (i : Nat) :
    (l.flatMap fun a => List.replicate n (f a))[i * n + c]? = l[i]?.map f := by
  induction l generalizing i with
  | nil => rfl
  | cons a l ih =>
    rw [List.flatMap_cons]
    cases i with
    | zero =>
      rw [List.getElem?_append_left (by simpa using hc), Nat.zero_mul, Nat.zero_add,
        List.getElem?_replicate_of_lt hc]
      rfl
    | succ i =>
      have hplace : (i + 1) * n + c = (i * n + c) + n := by rw [Nat.succ_mul]; omega
      rw [List.getElem?_append_right (by rw [List.length_replicate]; omega), List.length_replicate, hplace,
        Nat.add_sub_cancel, ih]
      rfl

theorem length_periodOut (s : State) : (periodOut s).length = 882 := by
  simp only [periodOut, List.length_flatMap, List.length_replicate, List.map_const', List.length_range,
    List.sum_replicate]
  rfl

/-- Both channels of sample `i` carry its value (rule R203). -/
theorem periodOut_getElem? (s : State) {i c : Nat} (hi : i < 441) (hc : c < 2) :
    (periodOut s)[i * 2 + c]? = some (periodSample s i) := by
  rw [periodOut, Config.NCH, getElem?_flatMap_replicate _ hc, Config.PERIOD_SAMPLES,
    List.getElem?_range hi]
  rfl

theorem exists_of_mem_periodOut {s : State} {q : I16} (h : q ∈ periodOut s) : ∃ i, q = periodSample s i := by
  obtain ⟨i, -, hq⟩ := List.mem_flatMap.1 h
  exact ⟨i, List.eq_of_mem_replicate hq⟩

/-- The offset of a sample is the counter's plus its index, wrapped (rule R200 step 1). -/
theorem sampleOffset_eq (s : State) (i : Nat) : sampleOffset s i = BitVec.ofNat 32 (s.curOfs.toNat + i) := by
  rw [sampleOffset, BitVec.ofNat_add, BitVec.ofNat_toNat, BitVec.setWidth_eq]

/-! #### The step of a tick -/

theorem step_tick (s : State) (accepted : Fin (Config.PERIOD_BYTES + 1)) (rest : List Event) :
    step { s with inputs := .tick accepted :: rest } =
      .next (servePeriodTick accepted.val { s with inputs := rest }) := rfl

theorem servePeriodTick_running (accepted : Nat) {s : State} (h : s.run = true) :
    servePeriodTick accepted s = produce accepted s := if_pos h

theorem servePeriodTick_stopped (accepted : Nat) {s : State} (h : s.run = false) :
    servePeriodTick accepted s = { s with label := .tickDiscarded } := if_neg (by simp [h])

/-- All that PRODUCE writes: the counter, the report of a shortfall, the label (rules R208 to R210). -/
theorem produce_eq (accepted : Nat) (s : State) :
    produce accepted s =
      { s with
        curOfs := s.curOfs + 441
        err := if accepted < Config.PERIOD_BYTES then s.err ||| 0x008 else s.err
        underruns :=
          if accepted < Config.PERIOD_BYTES then BitVec.ofNat 32 (min (s.underruns.toNat + 1) 0xFFFFFFFF)
          else s.underruns
        label := .period (periodOut s) accepted } := by
  unfold produce
  obtain ⟨hshort, e⟩ | ⟨hfull, e⟩ := produceState_cases accepted s
  · rw [e, if_pos hshort, if_pos hshort]
    rfl
  · rw [e, if_neg (Nat.not_lt.2 hfull), if_neg (Nat.not_lt.2 hfull)]
    rfl

/-- Settles O39: the values of the period by their places, the rest by the equation of PRODUCE. -/
theorem produceStepEffects : Obligations.ProduceStepEffects := by
  intro s accepted rest hrun
  refine ⟨_, periodOut s, (step_tick s accepted rest).trans (congrArg _ (servePeriodTick_running _ hrun)), ?_⟩
  rw [produce_eq]
  refine ⟨rfl, length_periodOut s, fun i hi c hc => ?sample, BitVec.toNat_add _ _,
    fun hshort => ⟨if_pos hshort, ?underruns⟩, fun hfull => ⟨if_neg hfull.not_lt, if_neg hfull.not_lt⟩,
    rfl, rfl, rfl, rfl, rfl, rfl, rfl, rfl, rfl, rfl, rfl, rfl, rfl, rfl, rfl⟩
  case sample =>
    rw [periodOut_getElem? s hi hc, periodSample, sampleOffset_eq]
    rfl
  case underruns =>
    have hsaturated : min (s.underruns.toNat + 1) 0xFFFFFFFF < 2 ^ 32 := by omega
    exact (congrArg BitVec.toNat (if_pos hshort)).trans (Nat.mod_eq_of_lt hsaturated)

/-- Settles O40. -/
theorem tickWhileStoppedDiscarded : Obligations.TickWhileStoppedDiscarded := fun s accepted rest hrun =>
  (step_tick s accepted rest).trans (congrArg _ (servePeriodTick_stopped _ hrun))

/-! #### What PRODUCE reads (rules R204 and R44 (e)) -/

theorem oscPhase_lt {u : OscUnit} {s : State} (h : s.oscSize.get u ≠ 0) (g : Word) :
    oscPhase u s g < s.oscSize.get u := Nat.mod_lt _ (Nat.pos_of_ne_zero h)

section
variable {s t : State}

theorem SameAudible.oscPhase_eq (h : SameAudible s t) (u : OscUnit) (g : Word) :
    oscPhase u s g = oscPhase u t g := by
  rw [oscPhase, oscPhase, h.osc_size]

theorem SameAudible.oscSampleAt_eq (h : SameAudible s t) (u : OscUnit) (g : Word) :
    oscSampleAt u s g = oscSampleAt u t g := by
  rw [oscSampleAt, oscSampleAt, ← h.osc_size, ← h.oscPhase_eq]
  split
  · rfl
  · next hconf => exact h.osc_buf u _ (oscPhase_lt hconf g)

theorem SameAudible.osc2SyncAt_eq (h : SameAudible s t) (g : Word) : osc2SyncAt s g = osc2SyncAt t g := by
  rw [osc2SyncAt, osc2SyncAt, ← h.osc_size, ← h.osc_size, ← h.oscPhase_eq]
  split
  · rfl
  · next hconf => exact h.osc_buf .osc2 _ (Nat.mod_lt _ (by omega))

theorem SameAudible.releaseLookup_eq (h : SameAudible s t) (idx : Nat) :
    releaseLookup s idx = releaseLookup t idx := by
  rw [releaseLookup, releaseLookup, ← h.rel_size]
  split
  · next hidx => exact h.rel_buf idx hidx
  · rfl

/-- The held entry is below the size of a configured envelope. -/
theorem SameAudible.attackDecayLookup_eq (h : SameAudible s t) (hconf : s.adSize ≠ 0) (idx : Nat) :
    attackDecayLookup s idx = attackDecayLookup t idx := by
  rw [attackDecayLookup_eq_min, attackDecayLookup_eq_min, ← h.ad_size]
  exact h.ad_buf _ (by omega)

theorem SameAudible.envValueAt_eq (h : SameAudible s t) (g : Word) : envValueAt s g = envValueAt t g := by
  rw [envValueAt, envValueAt, ← h.ad_size, ← h.rel_ofs, ← h.trig_ofs]
  by_cases hconf : s.adSize = 0
  · rw [if_pos hconf, if_pos hconf]
  · rw [h.releaseLookup_eq, h.attackDecayLookup_eq hconf]

theorem SameAudible.mixSample_eq (h : SameAudible s t) (g : Word) : mixSample s g = mixSample t g := by
  have hlfo : lfoFactor s g = lfoFactor t g := by
    rw [lfoFactor, lfoFactor, h.lfo_enabled, h.oscSampleAt_eq]
  have hosc2 : osc2Value s g = osc2Value t g := by
    rw [osc2Value, osc2Value, h.sync_enabled, h.osc2SyncAt_eq, h.oscSampleAt_eq]
  rw [mixSample, mixSample, h.envValueAt_eq, hlfo, h.oscSampleAt_eq, hosc2]

theorem SameAudible.periodSample_eq (h : SameAudible s t) (i : Nat) : periodSample s i = periodSample t i := by
  rw [periodSample, periodSample, sampleOffset, sampleOffset, h.cur_ofs, h.mixSample_eq]

end

/-- Settles O41: sample by sample, each lookup reads below its size. -/
theorem periodDependsOnAudibleStateOnly : Obligations.PeriodDependsOnAudibleStateOnly := by
  intro s t h
  simp only [periodOut, h.periodSample_eq]

/-! #### Silence -/

/-- With nothing configured the envelope and both oscillators are +0, and the LFO's factor is +0 or 1. -/
theorem mixSample_unconfigured {s : State} (hosc : ∀ u, s.oscSize.get u = 0) (henv : s.adSize = 0) (g : Word) :
    mixSample s g = 0 := by
  have hsample (u : OscUnit) : oscSampleAt u s g = 0 := if_pos (hosc u)
  have hsync : osc2SyncAt s g = 0 := if_pos (.inl (hosc .osc1))
  have henvelope : envValueAt s g = 0 := if_pos henv
  have hosc2 : osc2Value s g = 0 := by rw [osc2Value, hsync, hsample, ite_self]
  have hlfo : lfoFactor s g = 0 ∨ lfoFactor s g = c1 := by
    rw [lfoFactor, hsample]
    split
    · exact .inl rfl
    · exact .inr rfl
  rw [mixSample, henvelope, hsample, hosc2]
  obtain h | h := hlfo <;> rw [h] <;> decide

/-- Settles O42. -/
theorem unconfiguredCoreIsSilent : Obligations.UnconfiguredCoreIsSilent := by
  intro s hosc henv
  refine List.eq_replicate_iff.2 ⟨length_periodOut s, fun q hq => ?_⟩
  obtain ⟨i, rfl⟩ := exists_of_mem_periodOut hq
  have hcast : f2i16 0 = 0 := by decide
  rw [periodSample, mixSample_unconfigured hosc henv, hcast]

end Sys2Proof.Machine

/-! ### The parameter store (rules R221 to R231) -/

namespace Sys2Proof.Machine

/-! #### Housekeeping, the synth record, SNAPSHOT and KEY_RELEASE -/

/-- A command that succeeds clears RESULT and leaves ERR as it was (rule R230). -/
theorem State.report_zero (s : State) : s.report 0 = { s with result := 0 } := by
  simp [State.report]

/-- Settles O15. -/
theorem nopAndStart : Obligations.NopAndStart :=
  ⟨by decide, by decide, fun s =>
    ⟨congrArg _ s.report_zero, congrArg _ { s with run := true }.report_zero⟩⟩

/-- PRODUCE reads the two flags of the synth record, not the noise amplitude (rules R204, R225). -/
theorem sameAudible_setNoise (s : State) (noise : F32) :
    SameAudible ((s.setSynth { s.act.synth with noiseAmplitude := noise }).report 0) s := by
  constructor <;> intros <;> rfl

/-- Settles O16: each command is one `setSynth` and the report of a success, and the noise amplitude is not
audible. -/
theorem synthCommandsWriteTheirField : Obligations.SynthCommandsWriteTheirField := by
  refine ⟨by decide, by decide, by decide, by decide, fun flag s => ⟨?_, ?_, ?_, fun t ht => ?silent⟩⟩
  · exact congrArg _ (State.report_zero _)
  · exact congrArg _ (State.report_zero _)
  · rw [← stgWord_eq_getElem s (by decide)]
    exact congrArg _ (State.report_zero _)
  case silent =>
    rw [eq_report_of_exec ht]
    exact periodDependsOnAudibleStateOnly _ _ (sameAudible_setNoise s _)

/-- The flags word of the image as the sum of its two bits (rule R27). -/
theorem SynthParams.flagsWord_eq_ite (p : SynthParams) :
    p.flagsWord = BitVec.ofNat 32 ((if p.osc2SyncEnabled then 2 else 0) + (if p.lfoEnabled then 1 else 0)) := by
  rw [SynthParams.flagsWord]
  cases p.osc2SyncEnabled <;> cases p.lfoEnabled <;> rfl

/-- Settles O17. -/
theorem snapshotCopiesImage : Obligations.SnapshotCopiesImage := by
  refine ⟨by decide, fun s => ?_⟩
  simp only [← SynthParams.flagsWord_eq_ite]
  exact congrArg _ (State.report_zero _)

theorem exec_keyRelease_match {key : Nat} {s : State} (h : key = s.lastKey.toNat) :
    exec (.keyRelease key) s = .next { s with relOfs := s.curOfs, result := 0 } := by
  rw [exec, execKeyRelease, keyRelease, if_pos h, State.report_zero, envRelease]

theorem exec_keyRelease_other {key : Nat} {s : State} (h : key ≠ s.lastKey.toNat) :
    exec (.keyRelease key) s = .next { s with result := 0 } := by
  rw [exec, execKeyRelease, keyRelease, if_neg h, State.report_zero]

/-- Settles O37: no legal key equals the 0xFF that `lastKey` holds before the first press. -/
theorem keyReleaseGated : Obligations.KeyReleaseGated := by
  refine ⟨by decide, fun key s hkey => ⟨?_, fun hnone => exec_keyRelease_other ?_⟩⟩
  · split
    · next h => exact exec_keyRelease_match h
    · next h => exact exec_keyRelease_other h
  · rw [hnone]
    exact Nat.ne_of_lt (hkey.trans (by decide))

/-! #### APPLY_FULL -/

/-- The result word of APPLY_FULL: no part's codes depend on what the parts before it left (rule R226). -/
theorem applyFull_result (s : State) :
    (applyFull s).1 =
      rejected (oscUpdate .osc1 (s.stgOsc .osc1) s).1 (rejUnit .osc1) |||
      rejected (oscUpdate .osc2 (s.stgOsc .osc2) s).1 (rejUnit .osc2) |||
      rejected (oscUpdate .lfo (s.stgOsc .lfo) s).1 (rejUnit .lfo) |||
      rejected (envUpdate s.stgEnv s).1 rejEnv := by
  simp only [applyFull]
  rw [oscUpdate_codes_congr .osc1 _ _ s, oscUpdate_codes_congr .osc2 _ _ s,
    oscUpdate_codes_congr .lfo _ _ s, envUpdate_codes_congr _ _ s]

theorem applyFull_sameOsc (u : OscUnit) (s : State) :
    SameOsc u (applyFull s).2 (oscUpdate u (s.stgOsc u) s).2 :=
  (envUpdate_sameOsc _ u _).trans (applyOscs_osc u s)

theorem applyFull_sameEnv (s : State) : SameEnv (applyFull s).2 (envUpdate s.stgEnv s).2 :=
  envUpdate_congr _ (applyOscs_sameEnv s)

theorem setSynth_sameRest (p : SynthParams) (s : State) : SameRest (s.setSynth p) s := by
  constructor <;> rfl

/-- The staged synth record is words 14 and 15 of STG (rule R226). -/
theorem stgSynth_eq (s : State) :
    s.stgSynth = { lfoEnabled := s.stg[14].getLsbD 0, osc2SyncEnabled := s.stg[14].getLsbD 1,
                   noiseAmplitude := s.stg[15] } := by
  simp [State.stgSynth, stgWord_eq_getElem]

/-- Settles O32: an update depends on its own part alone, and leaves the other parts alone. -/
theorem applyFullPartsIndependent : Obligations.ApplyFullPartsIndependent := by
  intro s c e
  have regs := applyFull_sameRegs s
  exact ⟨_, exec_eq_report .applyFull s, regs.synth.trans (stgSynth_eq s),
    fun u => (applyFull_sameOsc u s).report _, (applyFull_sameEnv s).report _, applyFull_result s,
    congrArg (· ||| _) regs.err, (regs.toSameRest.trans (setSynth_sameRest _ s)).report _⟩

/-! #### APPLY_FULL, then SNAPSHOT

The words of a part are those of the record its update left: the requested one when the update accepted, the
prior one when it did not. -/

/-- The three words of an oscillator record, in the order of rule R24. -/
def OscRequest.words (r : OscRequest) : Vector Word 3 := #v[r.amp, r.freq, r.waveWord]

/-- The five words of the envelope record, in the order of rule R24. -/
def EnvParams.words (p : EnvParams) : Vector Word 5 := #v[p.attack, p.decay, p.release, p.sustain, p.amplitude]

section
variable (s : State) {n : Nat} (hn : n < 16)

/-- Words `3u` to `3u + 2` of the image are the active record of unit `u` (rule R27). -/
theorem image_osc (u : OscUnit) (j : Fin 3) (h : n = 3 * u.index + j) :
    s.act.image[n] = (s.actOsc u).words[j] := by
  subst h
  cases u <;> fin_cases j <;> rfl

/-- Words 9 to 13 of the image are the active envelope record (rule R27). -/
theorem image_env (j : Fin 5) (h : n = 9 + j) : s.act.image[n] = s.act.env.words[j] := by
  subst h
  fin_cases j <;> rfl

/-- Words `3u` to `3u + 2` of STG are the staged record of unit `u` (rules R25, R155). -/
theorem stg_osc (u : OscUnit) (j : Fin 3) (h : n = 3 * u.index + j) : s.stg[n] = (s.stgOsc u).words[j] := by
  subst h
  rw [← stgWord_eq_getElem]
  fin_cases j <;> rfl

/-- Words 9 to 13 of STG are the staged envelope record (rules R25, R180). -/
theorem stg_env (j : Fin 5) (h : n = 9 + j) : s.stg[n] = s.stgEnv.words[j] := by
  subst h
  rw [← stgWord_eq_getElem]
  fin_cases j <;> rfl

end

/-- The active record after `OscUpdate`: the new one when it accepts (rule R152). -/
theorem oscUpdate_actOsc (u : OscUnit) (new : OscRequest) (s : State) :
    (oscUpdate u new s).2.actOsc u = if (oscUpdate u new s).1 = [] then new else s.actOsc u := by
  obtain ⟨c, hc, -, e⟩ | ⟨w, n, -, hwave, -, -, -, e⟩ := oscUpdate_cases u new s <;> rw [e]
  · rw [if_neg hc]
  · simp [State.actOsc, ← hwave]

/-- The envelope record after `EnvUpdate`: the new one when it accepts (rule R172). -/
theorem envUpdate_params (p : EnvParams) (s : State) :
    (envUpdate p s).2.act.env = if (envUpdate p s).1 = [] then p else s.act.env := by
  obtain ⟨c, hc, -, e⟩ | ⟨z, -, -, -, -, -, e⟩ := envUpdate_cases p s <;> rw [e]
  · rw [if_neg hc]
  · rfl

/-- The error classes stand below bit 5 (rule R260). -/
theorem codesWord_getLsbD (c : Codes) {k : Nat} (hk : 5 ≤ k) : (codesWord c).getLsbD k = false := by
  have hlt : (codesWord c).toNat < 2 ^ 5 := by
    induction c with
    | nil => decide
    | cons e c ih =>
      have hbit : e.bit.toNat < 2 ^ 5 := by cases e <;> decide
      exact Nat.or_lt_two_pow hbit ih
  exact Nat.testBit_eq_false_of_lt (hlt.trans_le (Nat.pow_le_pow_right (by decide) hk))

/-- From bit 5 up a part reports its REJ bit, exactly when its update rejected (rule R230). -/
theorem rejected_getLsbD (c : Codes) (rej : Word) {k : Nat} (hk : 5 ≤ k) :
    (rejected c rej).getLsbD k = (decide (c ≠ []) && rej.getLsbD k) := by
  rw [rejected, BitVec.getLsbD_or, codesWord_getLsbD c hk]
  by_cases h : c = [] <;> simp [h]

/-- A REJ bit of RESULT is that of the one part it belongs to (rule R226). -/
theorem applyFull_getLsbD (s : State) {k : Nat} (hk : 5 ≤ k) :
    (applyFull s).1.getLsbD k =
      (decide ((oscUpdate .osc1 (s.stgOsc .osc1) s).1 ≠ []) && (rejUnit .osc1).getLsbD k ||
      decide ((oscUpdate .osc2 (s.stgOsc .osc2) s).1 ≠ []) && (rejUnit .osc2).getLsbD k ||
      decide ((oscUpdate .lfo (s.stgOsc .lfo) s).1 ≠ []) && (rejUnit .lfo).getLsbD k ||
      decide ((envUpdate s.stgEnv s).1 ≠ []) && rejEnv.getLsbD k) := by
  simp only [applyFull_result, BitVec.getLsbD_or, rejected_getLsbD _ _ hk]

/-- RESULT's REJ bit of a unit says whether its part of APPLY_FULL was rejected (rule R226). -/
theorem applyFull_rejUnit (s : State) (u : OscUnit) :
    (applyFull s).1.getLsbD (8 + u.index) = decide ((oscUpdate u (s.stgOsc u) s).1 ≠ []) := by
  rw [applyFull_getLsbD s (by omega)]
  cases u <;> simp [OscUnit.index, rejUnit, rejEnv]

/-- RESULT's REJ bit of the envelope says whether its part of APPLY_FULL was rejected (rule R226). -/
theorem applyFull_rejEnv (s : State) :
    (applyFull s).1.getLsbD 11 = decide ((envUpdate s.stgEnv s).1 ≠ []) := by
  rw [applyFull_getLsbD s (by omega)]
  simp [rejUnit, rejEnv]

section
variable (s : State) {n : Nat} (hn : n < 16)

/-- The words of an oscillator after APPLY_FULL: the prior ones when its REJ bit is set (rule R231). -/
theorem applyFull_image_osc (u : OscUnit) (j : Fin 3) (h : n = 3 * u.index + j) :
    (applyFull s).2.act.image[n] =
      if (applyFull s).1.getLsbD (8 + u.index) then s.act.image[n] else s.stg[n] := by
  have hrecord : (applyFull s).2.actOsc u = (oscUpdate u (s.stgOsc u) s).2.actOsc u := by
    rw [State.actOsc, (applyFull_sameOsc u s).params, State.actOsc]
  rw [image_osc _ hn u j h, image_osc s hn u j h, stg_osc s hn u j h, hrecord, oscUpdate_actOsc,
    applyFull_rejUnit]
  by_cases hc : (oscUpdate u (s.stgOsc u) s).1 = [] <;> simp [hc]

/-- The words of the envelope after APPLY_FULL: the prior ones when its REJ bit is set (rule R231). -/
theorem applyFull_image_env (j : Fin 5) (h : n = 9 + j) :
    (applyFull s).2.act.image[n] = if (applyFull s).1.getLsbD 11 then s.act.image[n] else s.stg[n] := by
  rw [image_env _ hn j h, image_env s hn j h, stg_env s hn j h, (applyFull_sameEnv s).params,
    envUpdate_params, applyFull_rejEnv]
  by_cases hc : (envUpdate s.stgEnv s).1 = [] <;> simp [hc]

include hn in
/-- Every word of the image but the two of the synth record belongs to an oscillator or to the envelope
(rule R24). -/
theorem image_index_cases (h14 : n ≠ 14) (h15 : n ≠ 15) :
    (∃ (u : OscUnit) (j : Fin 3), n = 3 * u.index + j) ∨ ∃ j : Fin 5, n = 9 + j := by
  rcases Nat.lt_or_ge n 9 with h9 | h9
  · obtain ⟨u, hu⟩ : ∃ u : OscUnit, u.index = n / 3 := by
      obtain h | h | h : n / 3 = 0 ∨ n / 3 = 1 ∨ n / 3 = 2 := by omega
      · exact ⟨.osc1, h.symm⟩
      · exact ⟨.osc2, h.symm⟩
      · exact ⟨.lfo, h.symm⟩
    exact .inl ⟨u, ⟨n % 3, by omega⟩, by simp only [hu]; omega⟩
  · exact .inr ⟨⟨n - 9, by omega⟩, by simp only; omega⟩

end

/-- The flags word of a record made of two bits of a word is that word without the others (rules R24, R27). -/
theorem flagsWord_of_bits (w : Word) (noise : F32) :
    SynthParams.flagsWord
        { lfoEnabled := w.getLsbD 0, osc2SyncEnabled := w.getLsbD 1, noiseAmplitude := noise } =
      w &&& 0x00000003 := by
  have hlow : (w.getLsbD 0).toNat = w.toNat / 2 ^ 0 % 2 := Nat.toNat_testBit _ _
  have hhigh : (w.getLsbD 1).toNat = w.toNat / 2 ^ 1 % 2 := Nat.toNat_testBit _ _
  have hmask : (w &&& 0x00000003).toNat = w.toNat % 2 ^ 2 := Nat.and_two_pow_sub_one_eq_mod w.toNat 2
  apply BitVec.eq_of_toNat_eq
  simp only [SynthParams.flagsWord, BitVec.toNat_ofNat, hlow, hhigh, hmask]
  omega

/-- Word 14 of the image after APPLY_FULL: the staged flags without the reserved bits (rules R24, R231). -/
theorem applyFull_image_flags (s : State) : (applyFull s).2.act.image[14] = s.stg[14] &&& 0x00000003 := by
  have hflags : (applyFull s).2.act.image[14] = s.stgSynth.flagsWord :=
    congrArg SynthParams.flagsWord (applyFull_sameRegs s).synth
  rw [hflags, stgSynth_eq, flagsWord_of_bits]

/-- Word 15 of the image after APPLY_FULL: the staged noise amplitude, which is not validated (rule R231). -/
theorem applyFull_image_noise (s : State) : (applyFull s).2.act.image[15] = s.stg[15] :=
  (congrArg SynthParams.noiseAmplitude (applyFull_sameRegs s).synth).trans (stgWord_eq_getElem s (by decide))

/-- With RESULT 0 every word of the image but the flags is the staged one (rule R231). -/
theorem applyFull_image_accepted (s : State) {n : Nat} (hn : n < 16) (h14 : n ≠ 14)
    (hresult : (applyFull s).1 = 0) : (applyFull s).2.act.image[n] = s.stg[n] := by
  by_cases h15 : n = 15
  · subst h15
    exact applyFull_image_noise s
  · obtain ⟨u, j, h⟩ | ⟨j, h⟩ := image_index_cases hn h14 h15
    · simpa [hresult] using applyFull_image_osc s hn u j h
    · simpa [hresult] using applyFull_image_env s hn j h

/-- Settles O33: SNAPSHOT shows the image APPLY_FULL left, and each word is that of its part. -/
theorem applyThenSnapshotRoundTrip : Obligations.ApplyThenSnapshotRoundTrip := by
  intro s
  refine ⟨_, _, exec_eq_report .applyFull s, exec_eq_report .snapshot _, applyFull_image_flags s,
    applyFull_image_noise s, fun hresult i hi => ?accepted,
    fun i => ?_, fun i => ?_, fun i => ?_, fun i => ?_⟩
  case accepted => exact applyFull_image_accepted s i.isLt (fun h => hi (Fin.ext h)) hresult
  · exact applyFull_image_osc s _ .osc1 i (Nat.zero_add _).symm
  · exact applyFull_image_osc s _ .osc2 i rfl
  · exact applyFull_image_osc s _ .lfo i rfl
  · exact applyFull_image_env s _ i rfl

/-! #### KEY_PRESS -/

/-- The record KEY_PRESS asks of OSC1: the active one at the note's frequency (rule R228). -/
def keyPressRequest (key : Nat) (s : State) : OscRequest := { s.actOsc .osc1 with freq := noteFreq key }

/-- The envelope record at another amplitude (rule R228). -/
def EnvParams.scaled (p : EnvParams) (a : F32) : EnvParams := { p with amplitude := a }

/-- Retuning OSC1 leaves the envelope record KEY_PRESS starts from. -/
theorem keyPressEnv_eq (key vel : Nat) (s : State) :
    keyPressEnv key vel s = s.act.env.scaled (velocityAmplitude vel) := by
  rw [keyPressEnv, (keyPressOsc_sameEnv key s).params, EnvParams.scaled]

/-- The result word of KEY_PRESS: neither update's codes depend on what ran before it (rule R228). -/
theorem keyPress_result (key vel : Nat) (s : State) :
    (keyPress key vel s).1 =
      rejected (oscUpdate .osc1 (keyPressRequest key s) s).1 (rejUnit .osc1) |||
      rejected (envUpdate (s.act.env.scaled (velocityAmplitude vel)) s).1 rejEnv := by
  have hword : (keyPress key vel s).1 =
      rejected (oscUpdate .osc1 (keyPressRequest key s) { s with lastKey := BitVec.ofNat 8 key }).1
        (rejUnit .osc1) |||
      rejected (envUpdate (keyPressEnv key vel s) (keyPressOsc key s)).1 rejEnv := rfl
  rw [hword, keyPressEnv_eq, oscUpdate_codes_congr .osc1 _ _ s, envUpdate_codes_congr _ _ s]

/-- OSC1 after KEY_PRESS is as its update alone leaves it. -/
theorem keyPress_sameOsc1 (key vel : Nat) (s : State) :
    SameOsc .osc1 (keyPress key vel s).2 (oscUpdate .osc1 (keyPressRequest key s) s).2 :=
  have hosc : SameOsc .osc1 (keyPressOsc key s) (oscUpdate .osc1 (keyPressRequest key s) s).2 :=
    oscUpdate_congr _ _ ⟨rfl, rfl, fun _ => rfl⟩
  (keyPress_sameOsc _ key vel s).trans hosc

/-- The envelope after KEY_PRESS is as its update alone leaves it. -/
theorem keyPress_sameEnv (key vel : Nat) (s : State) :
    SameEnv (keyPress key vel s).2 (envUpdate (s.act.env.scaled (velocityAmplitude vel)) s).2 := by
  have htrigger : SameEnv (keyPress key vel s).2 (envUpdate (keyPressEnv key vel s) (keyPressOsc key s)).2 :=
    ⟨rfl, rfl, rfl, rfl, fun _ => rfl, fun _ => rfl⟩
  rw [← keyPressEnv_eq key vel s]
  exact htrigger.trans (envUpdate_congr _ (keyPressOsc_sameEnv key s))

/-- Settles O34: each update runs on its own part as before the press, and the rest is `commandRegs`. -/
theorem keyPressEffects : Obligations.KeyPressEffects := by
  intro key vel s hkey _ o e
  have regs := keyPress_sameRegs key vel s
  have hlast : (keyPress key vel s).2.lastKey.toNat = key := by
    rw [regs.last_key]
    exact Nat.mod_eq_of_lt (hkey.trans (by decide))
  exact ⟨_, exec_eq_report (.keyPress key vel) s, hlast, regs.trig_ofs, regs.rel_ofs,
    (keyPress_sameOsc1 key vel s).report _, (keyPress_sameEnv key vel s).report _,
    (commandEffect_sameOsc s rfl).report _, (commandEffect_sameOsc s rfl).report _,
    regs.synth, keyPress_result key vel s, congrArg (· ||| _) regs.err, regs.stg, regs.snap, regs.cur_ofs,
    regs.run, regs.underruns, regs.peek_addr, regs.inputs, regs.label⟩

/-- From key 4 up OSC1 accepts the note's frequency (rules R130, R161). -/
theorem oscUpdate_keyPressRequest {key : Nat} (s : State) (hlow : 4 ≤ key) (hkey : key < 128) :
    oscUpdate .osc1 (keyPressRequest key s) s =
      ([], oscStore .osc1 (keyPressRequest key s) s.act.osc.osc1.waveform (oscPeriod .osc1 (noteFreq key)) s) :=
  oscUpdate_accepted s rfl ((keysBelowFourRejected key hkey).2 hlow)

/-- A configured envelope accepts its record at every amplitude: the lengths do not depend on it (rule R172). -/
theorem EnvValid.envUpdate_scaled {s : State} (h : EnvValid s) (a : F32) :
    envUpdate (s.act.env.scaled a) s = ([], envStore (s.act.env.scaled a) s.envLengths s) := by
  obtain ⟨hcheck, -⟩ := h
  rw [envUpdate, EnvParams.scaled, envCheck_amplitude, hcheck]

/-- Settles O36: both updates of the press are accepted, the envelope's with the lengths it has. -/
theorem keyPressOnConfiguredSucceeds : Obligations.KeyPressOnConfiguredSucceeds := by
  intro key vel s hinv hsize hlow hkey _
  have hosc := oscUpdate_keyPressRequest s hlow hkey
  have henv := (hinv.env_valid hsize).envUpdate_scaled (velocityAmplitude vel)
  have hexec : exec (.keyPress key vel) s = .next ((keyPress key vel s).2.report 0) := by
    rw [exec, execKeyPress, keyPress_result, hosc, henv, rejected_nil, rejected_nil]
    rfl
  have osc := keyPress_sameOsc1 key vel s
  have env := keyPress_sameEnv key vel s
  rw [hosc] at osc
  rw [henv] at env
  refine ⟨_, hexec, rfl, ?err, congrArg OscParams.frequency osc.params, osc.size,
    congrArg EnvParams.amplitude env.params, env.ad_size.trans ?size,
    env.atk_size.trans (envStore_atkSize _ _ s), env.rel_size.trans (envStore_relSize _ _ s)⟩
  case err =>
    rw [State.report_zero]
    exact commandEffect_err (.keyPress key vel) s
  case size => exact Nat.add_sub_cancel' hinv.atk_size

end Sys2Proof.Machine


/-! ### The codes each command can leave in RESULT (rules R161 and R263) -/

namespace Sys2Proof.Machine

theorem result_of_exec {i : Instr} {s t : State} (h : exec i s = .next t) :
    t.result = (commandEffect i s).1 := by
  rw [eq_report_of_exec h]
  rfl

theorem mem_three_iff {r a b c : Word} : r ∈ [a, b, c] ↔ r = a ∨ r = b ∨ r = c := by simp

/-! #### One `OscUpdate` -/

section
variable {u : OscUnit} {new : OscRequest}

/-- Step 1 of rule R152 as a result word. -/
theorem oscRejected_reserved_wave (s : State) (hwave : 3 ≤ new.waveWord.toNat) :
    rejected (oscUpdate u new s).1 (rejUnit u) = 0x010 ||| rejUnit u := by
  rw [oscUpdate_reserved_wave s hwave, rejected_of_ne_nil (by simp)]
  rfl

/-- Steps 2 to 4 as a result word: a legal waveform leaves the frequency to decide, and E_CAP never shows
(rule R161). -/
theorem oscRejected_legal_wave (s : State) (hwave : new.waveWord.toNat < 3) :
    rejected (oscUpdate u new s).1 (rejUnit u) =
      if oscFreqOk u new.freq then 0 else 0x001 ||| rejUnit u := by
  cases hfreq : oscFreqOk u new.freq with
  | false =>
    rw [oscUpdate_rejected_freq s hwave hfreq, rejected_of_ne_nil (by simp)]
    rfl
  | true =>
    obtain ⟨w, hw⟩ := waveOfWord_eq_some_of_lt hwave
    rw [oscUpdate_accepted s (waveOfWord_eq_some hw) hfreq, rejected_nil]
    rfl

theorem oscRejected_legal_wave_cases (s : State) (hwave : new.waveWord.toNat < 3) :
    rejected (oscUpdate u new s).1 (rejUnit u) = 0 ∨
      rejected (oscUpdate u new s).1 (rejUnit u) = 0x001 ||| rejUnit u := by
  rw [oscRejected_legal_wave s hwave]
  exact ite_eq_or_eq _ _ _

variable (u new) in
/-- Every result word of one `OscUpdate`. -/
theorem oscRejected_mem (s : State) :
    rejected (oscUpdate u new s).1 (rejUnit u) ∈ [0, 0x010 ||| rejUnit u, 0x001 ||| rejUnit u] := by
  obtain hwave | hwave := Nat.lt_or_ge new.waveWord.toNat 3
  · obtain h | h := oscRejected_legal_wave_cases (u := u) s hwave <;> simp [h]
  · simp [oscRejected_reserved_wave s hwave]

end

/-! #### One `EnvUpdate` -/

/-- The words of the two code sets `EnvUpdate` rejects with (rules R180, R260). -/
theorem envRejected_words :
    rejected [.env] rejEnv = 0x802 ∧ rejected [.env, .cap] rejEnv = 0x806 := by decide

/-- Every result word of one `EnvUpdate` (rule R172). -/
theorem envRejected_mem (p : EnvParams) (s : State) :
    rejected (envUpdate p s).1 rejEnv ∈ [0, 0x802, 0x806] := by
  obtain ⟨h, -⟩ | ⟨h, -⟩ | ⟨h, -⟩ := envCheck_cases p <;>
    simp [envUpdate, h, envRejected_words, rejected_nil]

/-- The reset record fails step 1 of rule R172. -/
theorem envRangesOk_reset : envRangesOk State.reset.act.env = false := by decide

/-- Rescaled, a configured envelope is accepted and an unconfigured one holds the reset record, whose zero
durations fail step 1 (rule R228, log entry 8). -/
theorem envRejected_scaled {s : State} (hinv : Inv s) (a : F32) :
    rejected (envUpdate (s.act.env.scaled a) s).1 rejEnv = if s.adSize = 0 then 0x802 else 0 := by
  split
  · next hsize =>
    obtain ⟨-, -, hrecord⟩ := hinv.env_unconfigured hsize
    have hrange : envRangesOk (s.act.env.scaled a) = false := by
      rw [hrecord]
      exact envRangesOk_reset
    rw [envUpdate_rejected_range s hrange]
    exact envRejected_words.1
  · next hsize => rw [(hinv.env_valid hsize).envUpdate_scaled a, rejected_nil]

/-- Settles O54: each update's result word, and RESULT of APPLY_FULL and KEY_PRESS as the OR of theirs. -/
theorem resultCodesPerCommand : Obligations.ResultCodesPerCommand := by
  intro s t
  refine ⟨fun i hi h => ?zero, fun k h => result_of_exec h, fun u h => ?osc, fun u h => ?legal,
    fun h => ?env, fun k v hinv h => ?press, fun h => ?full⟩
  case zero =>
    rw [result_of_exec h]
    simp only [List.mem_cons, List.not_mem_nil, or_false] at hi
    obtain rfl | rfl | rfl | rfl | rfl | rfl | rfl | rfl := hi <;> rfl
  case osc =>
    obtain h | h := h <;> rw [result_of_exec h]
    · exact mem_three_iff.1 (oscRejected_mem u _ s)
    · exact mem_three_iff.1 (oscRejected_mem u _ s)
  case legal =>
    obtain h | h := h <;> rw [result_of_exec h] <;>
      exact oscRejected_legal_wave_cases s (waveToWord_lt _)
  case env =>
    rw [result_of_exec h]
    exact mem_three_iff.1 (envRejected_mem _ s)
  case press =>
    have hresult : t.result = (keyPress k v s).1 := result_of_exec h
    rw [hresult, keyPress_result, envRejected_scaled hinv, oscRejected_legal_wave s (waveToWord_lt _)]
    rfl
  case full =>
    have hresult : t.result = (applyFull s).1 := result_of_exec h
    exact ⟨_, oscRejected_mem .osc1 _ s, _, oscRejected_mem .osc2 _ s, _, oscRejected_mem .lfo _ s,
      _, envRejected_mem _ s, hresult.trans (applyFull_result s)⟩

end Sys2Proof.Machine


/-! ### The reset event (rules R290 and R45) -/

namespace Sys2Proof.Machine

theorem step_event (s : State) (e : Event) (rest : List Event) :
    step { s with inputs := e :: rest } = serve e { s with inputs := rest } := rfl

/-- Only the schedule and the epoch of the free buffer contents are carried over a reset. -/
theorem serve_reset (s : State) :
    serve .reset s =
      .next { State.reset with
        mem := { State.reset.mem with epoch := s.mem.epoch + 1 }
        inputs := s.inputs
        label := .resetDone } := rfl

/-- Settles O13: the waiting reset is taken off the schedule and served. -/
theorem resetEventRestoresReset : Obligations.ResetEventRestoresReset := fun s rest =>
  (step_event s .reset rest).trans (serve_reset _)

end Sys2Proof.Machine
